-- ==== Sys2Proof/Word.lean ====
section
/-!
DEFINITION. The bit-vector types of DT-TIM: 16-bit timer registers and 32-bit command, clock and
interrupt-controller words (00_scope.md R8, R9). Everything is unsigned (R9).
-/
namespace Sys2Proof

/-- A command word, a clock-enable word, an interrupt-controller word or `result` (R8, R52, R90). -/
abbrev Word := BitVec 32

/-- A timer register value (R8, R31). -/
abbrev Half := BitVec 16

/-- The raw instance field of a command, 0..7 (R91, R95). -/
abbrev Inst := BitVec 3

end Sys2Proof
end

