-- ==== Sys2Proof/Syntax.lean ====
section
/-!
DEFINITION. The commands of DT-TIM, one constructor per row of the opcode map (30_encoding.md R96), with
the operands of R95. A channel is the raw 3-bit field: values outside 1..4 are legal encodings (R99).
-/
namespace Sys2Proof

/-- One DT-TIM command (R96). -/
inductive Instr where
  /-- CLK_EN (R110). -/
  | clkEn (inst : Inst)
  /-- BASE_INIT (R121). -/
  | baseInit (inst : Inst)
  /-- BASE_START (R122). -/
  | baseStart (inst : Inst)
  /-- BASE_STOP (R123). -/
  | baseStop (inst : Inst)
  /-- BASE_START_IT (R124). -/
  | baseStartIt (inst : Inst)
  /-- BASE_STOP_IT (R125). -/
  | baseStopIt (inst : Inst)
  /-- PWM_INIT (R160). -/
  | pwmInit (inst : Inst) (ch : BitVec 3)
  /-- PWM_START (R161). -/
  | pwmStart (inst : Inst) (ch : BitVec 3)
  /-- PWM_STOP (R162). -/
  | pwmStop (inst : Inst) (ch : BitVec 3)
  /-- PWM_SET_DUTY (R163). -/
  | pwmSetDuty (inst : Inst) (ch : BitVec 3) (imm : Half)
  /-- IC_INIT (R180). -/
  | icInit (inst : Inst) (ch : BitVec 3)
  /-- IC_START_IT (R181). -/
  | icStartIt (inst : Inst) (ch : BitVec 3)
  /-- IC_STOP_IT (R182). -/
  | icStopIt (inst : Inst) (ch : BitVec 3)
  /-- IC_READ (R183). -/
  | icRead (inst : Inst) (ch : BitVec 3)
  /-- IRQ_DISPATCH (R220). -/
  | irqDispatch (inst : Inst)
  /-- NVIC_SET_EN (R202). -/
  | nvicSetEn (en : BitVec 1) (line : BitVec 16)
  /-- NVIC_SET_PRIO (R204). -/
  | nvicSetPrio (level : BitVec 8) (line : BitVec 16)
  /-- REG_RD (R235). -/
  | regRd (inst : Inst) (reg : BitVec 4)
  /-- REG_WR (R236). -/
  | regWr (inst : Inst) (reg : BitVec 4) (imm : Half)
  /-- HSET (R230). -/
  | hset (inst : Inst) (fld : BitVec 4) (val : Half)
deriving DecidableEq, Repr

end Sys2Proof
end

