-- ==== Sys2Proof/WellFormed.lean ====
section
/-!
DEFINITION. Which terms of `Instr` stand for a command word. The operand widths are in the types, so one check is left:
an HSET field id of 10 or above decodes to illegal (30_encoding.md R97, step 4).
-/
namespace Sys2Proof

/-- The handle field ids that exist: 0..9 (R45, R97). -/
def handleFieldExists (fld : BitVec 4) : Bool := decide (fld.toNat < 10)

/-- A term that some command word decodes to (R97). -/
def Instr.wellFormed : Instr → Bool
  | .hset _ fld _ => handleFieldExists fld
  | .clkEn _ | .baseInit _ | .baseStart _ | .baseStop _ | .baseStartIt _ | .baseStopIt _ => true
  | .pwmInit _ _ | .pwmStart _ _ | .pwmStop _ _ | .pwmSetDuty _ _ _ => true
  | .icInit _ _ | .icStartIt _ _ | .icStopIt _ _ | .icRead _ _ => true
  | .irqDispatch _ | .nvicSetEn _ _ | .nvicSetPrio _ _ | .regRd _ _ | .regWr _ _ _ => true

end Sys2Proof
end

