-- ==== Sys2Proof/Decode.lean ====
section
/-!
DEFINITION. The decoder of 30_encoding.md R97, in its own order of checks, and after it the encoder, written from the
formats T, R, H and N (R91-R94) and the opcode map (R96).
-/
namespace Sys2Proof

/-- The assigned opcodes of the map (R96); 0x00 and 0x15..0x1F are reserved (R98). -/
inductive Opcode where
  | clkEn | baseInit | baseStart | baseStop | baseStartIt | baseStopIt
  | pwmInit | pwmStart | pwmStop | pwmSetDuty
  | icInit | icStartIt | icStopIt | icRead
  | irqDispatch | nvicSetEn | nvicSetPrio | regRd | regWr | hset
deriving DecidableEq, Repr

/-- Why a word decodes to *illegal* (R97). All three are the fault IllegalCommand when executed (R301). -/
inductive DecodeError where
  /-- Step 2: the opcode is reserved (R98). -/
  | reservedOpcode
  /-- Step 3: a fixed-zero field is nonzero. -/
  | fixedZeroNonzero
  /-- Step 4: HSET with a field id of 10 or above. -/
  | handleFieldOutOfRange
deriving DecidableEq, Repr

/-- The OP column of R96. -/
def Opcode.code : Opcode → BitVec 5
  | .clkEn => 0x01 | .baseInit => 0x02 | .baseStart => 0x03 | .baseStop => 0x04
  | .baseStartIt => 0x05 | .baseStopIt => 0x06
  | .pwmInit => 0x07 | .pwmStart => 0x08 | .pwmStop => 0x09 | .pwmSetDuty => 0x0A
  | .icInit => 0x0B | .icStartIt => 0x0C | .icStopIt => 0x0D | .icRead => 0x0E
  | .irqDispatch => 0x0F | .nvicSetEn => 0x10 | .nvicSetPrio => 0x11
  | .regRd => 0x12 | .regWr => 0x13 | .hset => 0x14

/-- All rows of R96, in the table's order. -/
def Opcode.all : List Opcode :=
  [.clkEn, .baseInit, .baseStart, .baseStop, .baseStartIt, .baseStopIt, .pwmInit, .pwmStart,
   .pwmStop, .pwmSetDuty, .icInit, .icStartIt, .icStopIt, .icRead, .irqDispatch, .nvicSetEn,
   .nvicSetPrio, .regRd, .regWr, .hset]

/-- The row of an opcode field; none for a reserved opcode (R97 step 2, R98). -/
def Opcode.ofCode (op : BitVec 5) : Option Opcode :=
  Opcode.all.find? fun o => o.code == op

/-- The mask of a row: the opcode and the fixed-zero fields (R96, second table). -/
def Opcode.mask : Opcode → Word
  | .clkEn | .baseInit | .baseStart | .baseStop | .baseStartIt | .baseStopIt | .irqDispatch => 0xF8FFFFFF
  | .pwmInit | .pwmStart | .pwmStop | .icInit | .icStartIt | .icStopIt | .icRead => 0xF81FFFFF
  | .pwmSetDuty => 0xF81F0000
  | .nvicSetEn => 0xFBFF0000
  | .nvicSetPrio => 0xFF000000
  | .regRd => 0xF80FFFFF
  | .regWr => 0xF80F0000
  | .hset => 0xF80F0000

/-- The match value of a row: `OP << 27` (R96). -/
def Opcode.pattern (o : Opcode) : Word := o.code.setWidth 32 <<< 27

/-- The operand fields of R95. -/
def opField (w : Word) : BitVec 5 := w.extractLsb' 27 5
def instField (w : Word) : Inst := w.extractLsb' 24 3
def chField (w : Word) : BitVec 3 := w.extractLsb' 21 3
def regField (w : Word) : BitVec 4 := w.extractLsb' 20 4
def immField (w : Word) : Half := w.extractLsb' 0 16
def enField (w : Word) : BitVec 1 := w.extractLsb' 26 1
def levelField (w : Word) : BitVec 8 := w.extractLsb' 16 8

/-- Step 5 of R97: the command of a row with the operands of R95. -/
def Opcode.operands (o : Opcode) (w : Word) : Instr :=
  match o with
  | .clkEn => .clkEn (instField w)
  | .baseInit => .baseInit (instField w)
  | .baseStart => .baseStart (instField w)
  | .baseStop => .baseStop (instField w)
  | .baseStartIt => .baseStartIt (instField w)
  | .baseStopIt => .baseStopIt (instField w)
  | .pwmInit => .pwmInit (instField w) (chField w)
  | .pwmStart => .pwmStart (instField w) (chField w)
  | .pwmStop => .pwmStop (instField w) (chField w)
  | .pwmSetDuty => .pwmSetDuty (instField w) (chField w) (immField w)
  | .icInit => .icInit (instField w) (chField w)
  | .icStartIt => .icStartIt (instField w) (chField w)
  | .icStopIt => .icStopIt (instField w) (chField w)
  | .icRead => .icRead (instField w) (chField w)
  | .irqDispatch => .irqDispatch (instField w)
  | .nvicSetEn => .nvicSetEn (enField w) (immField w)
  | .nvicSetPrio => .nvicSetPrio (levelField w) (immField w)
  | .regRd => .regRd (instField w) (regField w)
  | .regWr => .regWr (instField w) (regField w) (immField w)
  | .hset => .hset (instField w) (regField w) (immField w)

/-- The decoder of R97, total on every 32-bit word. -/
def decode (w : Word) : Except DecodeError Instr :=
  match Opcode.ofCode (opField w) with
  | none => .error .reservedOpcode
  | some o =>
    if w &&& o.mask ≠ o.pattern then .error .fixedZeroNonzero
    else if (o.operands w).wellFormed then .ok (o.operands w)
    else .error .handleFieldOutOfRange

/-- A command word stored as bytes is little-endian (20_memory.md R78, D47). DT-TIM itself holds its programs as words
(R50); this reads one word from bytes laid out that way and returns the bytes after it. -/
def decodeBytes : List (BitVec 8) → Option (Except DecodeError Instr × List (BitVec 8))
  | b0 :: b1 :: b2 :: b3 :: rest => some (decode (b3 ++ b2 ++ b1 ++ b0), rest)
  | _ => none

/-! ## The encoder -/

/-- Format T (R91): OP, INST, CH, Z5 = 0, IMM. -/
def formatT (o : Opcode) (inst : Inst) (ch : BitVec 3) (imm : Half) : Word :=
  o.code ++ inst ++ ch ++ 0#5 ++ imm

/-- Formats R (R92) and H (R93): OP, INST, REG or FLD, Z4 = 0, IMM or VAL. -/
def formatR (o : Opcode) (inst : Inst) (reg : BitVec 4) (imm : Half) : Word :=
  o.code ++ inst ++ reg ++ 0#4 ++ imm

/-- Format N (R94): OP, EN, Z2 = 0, LEVEL, LINE. -/
def formatN (o : Opcode) (en : BitVec 1) (level : BitVec 8) (line : BitVec 16) : Word :=
  o.code ++ en ++ 0#2 ++ level ++ line

/-- The command word of an instruction (R91-R96). -/
def encode : Instr → Word
  | .clkEn i => formatT .clkEn i 0 0
  | .baseInit i => formatT .baseInit i 0 0
  | .baseStart i => formatT .baseStart i 0 0
  | .baseStop i => formatT .baseStop i 0 0
  | .baseStartIt i => formatT .baseStartIt i 0 0
  | .baseStopIt i => formatT .baseStopIt i 0 0
  | .pwmInit i c => formatT .pwmInit i c 0
  | .pwmStart i c => formatT .pwmStart i c 0
  | .pwmStop i c => formatT .pwmStop i c 0
  | .pwmSetDuty i c v => formatT .pwmSetDuty i c v
  | .icInit i c => formatT .icInit i c 0
  | .icStartIt i c => formatT .icStartIt i c 0
  | .icStopIt i c => formatT .icStopIt i c 0
  | .icRead i c => formatT .icRead i c 0
  | .irqDispatch i => formatT .irqDispatch i 0 0
  | .nvicSetEn en line => formatN .nvicSetEn en 0 line
  | .nvicSetPrio level line => formatN .nvicSetPrio 0 level line
  | .regRd i r => formatR .regRd i r 0
  | .regWr i r v => formatR .regWr i r v
  | .hset i f v => formatR .hset i f v

/-- The host's view of the decoder: the instruction read from the `nbits` low bits of `w`, every bit above them 0. -/
def decodeTableWord (nbits w : Nat) : Option Instr :=
  match decode (BitVec.ofNat 32 (w % 2 ^ nbits)) with
  | .ok i => some i
  | .error _ => none

end Sys2Proof
end

