-- ==== Sys2Proof/Config.lean ====
section
/-!
DEFINITION. What is fixed for one launch: the types the implementation parameters P1-P16 of 00_scope.md R7 range over,
the record of parameters with the spec's defaults, and the free values the spec leaves open.
-/
namespace Sys2Proof

/-- The two bus clock-enable registers (R42). -/
inductive Bus where
  | hs | ls
deriving DecidableEq, Repr

/-- The timer registers of R31. -/
inductive Reg where
  | cr | ier | sr | mra | mrb | epr | psc | arr | ccr1 | ccr2 | ccr3 | ccr4 | brk
deriving DecidableEq, Repr

/-- One value for every timer register of an instance (R31). -/
structure TimerRegs where
  cr : Half
  ier : Half
  sr : Half
  mra : Half
  mrb : Half
  epr : Half
  psc : Half
  arr : Half
  ccr1 : Half
  ccr2 : Half
  ccr3 : Half
  ccr4 : Half
  brk : Half
deriving DecidableEq, Repr

/-- The channels 1..4 (R8, R12). -/
inductive Channel where
  | ch1 | ch2 | ch3 | ch4
deriving DecidableEq, Repr

/-- The two event callbacks (R47). -/
inductive CallbackKind where
  | periodElapsed | captureEvent
deriving DecidableEq, Repr

/-- P9: what a per-channel command does with a channel outside 1..4 (R140). -/
inductive BadChannelPolicy where
  | noop | fault
deriving DecidableEq, Repr

/-- P10: what an access to an unclocked instance does (R73). -/
inductive UnclockedPolicy where
  | fault | ignore
deriving DecidableEq, Repr

/-- What an address of the OPEN map P16 can name: a register of one of the three spaces (R70, R80). -/
inductive RegTarget where
  | timer (i : Inst) (r : Reg)
  | clock (b : Bus)
  | iser (bank : Nat)
  | icer (bank : Nat)
  | ipr (slot : Nat)
deriving DecidableEq, Repr

/-- The implementation parameters P1-P16 (R7). Per-instance parameters have one entry for each instance number 0..7;
the entries at or above `numInstances` are read by nothing. -/
structure Params where
  /-- P1. -/
  numInstances : Nat
  /-- P2. -/
  advancedInst : Inst
  /-- P3. -/
  clkBus : Vector Bus 8
  /-- P4. -/
  clkBit : Vector (BitVec 5) 8
  /-- P5. -/
  irqLine : Vector (BitVec 16) 8
  /-- P6. -/
  numBanks : Nat
  /-- P7. -/
  numPrioSlots : Nat
  /-- P8. -/
  ccerClearMask : BitVec 4
  /-- P9. -/
  badChannelPolicy : BadChannelPolicy
  /-- P10. -/
  unclockedPolicy : UnclockedPolicy
  /-- P11. -/
  legalOcModes : List (BitVec 4)
  /-- P12, the code of a direct input selection. -/
  icSelDirect : BitVec 2
  /-- P12, the code of an indirect input selection. -/
  icSelIndirect : BitVec 2
  /-- P12, the code of an internal-trigger input selection. -/
  icSelInternalTrigger : BitVec 2
  /-- P13 for channel 1. -/
  bothEdges1 : Bool
  /-- P13 for channel 2. -/
  bothEdges2 : Bool
  /-- P13 for channel 3. -/
  bothEdges3 : Bool
  /-- P13 for channel 4. -/
  bothEdges4 : Bool
  /-- P14. -/
  timerResetValue : TimerRegs
  /-- P15 for PeriodElapsed. -/
  onPeriodElapsed : Vector (List Word) 8
  /-- P15 for CaptureEvent. -/
  onCaptureEvent : Vector (List Word) 8
  /-- P16, OPEN. -/
  regAddress : List (Nat × RegTarget)
deriving DecidableEq, Repr

/-- Every timer register 0: the default of P14 (R7, R55). -/
def TimerRegs.zero : TimerRegs := ⟨0, 0, 0, 0, 0, 0, 0, 0, 0, 0, 0, 0, 0⟩

/-- The defaults of R7. PRESUMED by the spec itself (general knowledge) for P3, P4, P5 and P12. -/
def Params.default : Params where
  numInstances := 4
  advancedInst := 0
  clkBus := #v[.hs, .ls, .ls, .ls, .ls, .ls, .ls, .ls]
  clkBit := #v[11, 0, 1, 2, 0, 0, 0, 0]
  irqLine := #v[25, 28, 29, 30, 0, 0, 0, 0]
  numBanks := 3
  numPrioSlots := 24
  ccerClearMask := 0xF
  badChannelPolicy := .noop
  unclockedPolicy := .fault
  legalOcModes := [0, 1, 2, 3, 4, 5, 6, 7, 8, 9, 10, 11, 12, 13, 14, 15]
  icSelDirect := 1
  icSelIndirect := 2
  icSelInternalTrigger := 3
  bothEdges1 := true
  bothEdges2 := true
  bothEdges3 := true
  bothEdges4 := true
  timerResetValue := .zero
  onPeriodElapsed := #v[[], [], [], [], [], [], [], []]
  onCaptureEvent := #v[[], [], [], [], [], [], [], []]
  regAddress := []

/-- FREE VALUE: the priority of line `line` when its slot is outside the priority table (R201 with P7 states none),
at the `draw`-th interrupt entry. Nothing constrains it. DESIGN CHOICE, log entry 8. -/
opaque Config.priorityOutsideTable (line draw : Nat) : BitVec 4

/-- One choice of the environment: which step of R310 comes next (log entry 2). A turn whose guard does not hold changes
nothing but the list of turns. -/
inductive Machine.Turn where
  /-- One atomic step of the current context: its next access, its command's completion, or its return (R310, R10, R315). -/
  | access
  /-- The current context, if it is the base level between two commands, runs its next command with no step of another
  agent between its steps; otherwise the same as `access`. -/
  | command
  /-- The update event UPD(i) (R320). -/
  | update (i : Inst)
  /-- The capture/compare event CC(i, ch) with the draw `d` (R321). -/
  | capture (i : Inst) (ch : Channel) (d : Half)
  /-- The pending step PEND(i) (R312). -/
  | pend (i : Inst)
  /-- Interrupt entry of the line that R317 selects (R314). -/
  | enter
deriving DecidableEq, Repr

/-- An environment: the turns it takes one after another, for each time it is asked. Every list is finite, so what the machine
does by itself between two of them is never put off for ever (R324). -/
abbrev Environment := Nat → List Machine.Turn

/-- FREE VALUE: what the environment does (R310, R324: which hardware events and pending steps occur, and when, is not fixed, and
none of them need ever occur). Nothing constrains it. DESIGN CHOICE, log entry 2. -/
opaque Config.environment : Environment

end Sys2Proof
end

