-- ==== Sys2Proof/Machine/State.lean ====
section
/-!
DEFINITION. The state of DT-TIM as plain data (10_state.md R30-R55), the model's stop reasons, and the state after reset.
-/
namespace Sys2Proof.Machine

open Sys2Proof

/-- Counting direction (R45: 0 = up, 1 = down). -/
inductive Direction where
  | up | down
deriving DecidableEq, Repr

/-- Output polarity (R45: 0 = active-high, 1 = active-low). -/
inductive OcPolarity where
  | activeHigh | activeLow
deriving DecidableEq, Repr

/-- Capture polarity (R45: 0 = rising, 1 = falling, 2 = both-edges). -/
inductive IcPolarity where
  | rising | falling | bothEdges
deriving DecidableEq, Repr

/-- Input selection (R45: 0 = direct, 1 = indirect, 2 = internal-trigger). -/
inductive IcSelection where
  | direct | indirect | internalTrigger
deriving DecidableEq, Repr

/-- The handle of one instance (R45). `none` is the spec's own *unwritten*; reading it is the spec's fault
UnsetHandleField (R301). -/
structure Handle where
  prescaler : Option Half
  period : Option Half
  direction : Option Direction
  ocMode : Option (BitVec 4)
  pulse : Option Half
  ocPolarity : Option OcPolarity
  icPolarity : Option IcPolarity
  icSelection : Option IcSelection
  icPrescaler : Option (BitVec 2)
  icFilter : Option (BitVec 4)
deriving DecidableEq, Repr

/-- Every field unwritten (R55). -/
def Handle.unwritten : Handle := ⟨none, none, none, none, none, none, none, none, none, none⟩

/-- The handle fields a command read when it started (R51, D22). A field the command does not read stands at the value
written here and no access of that command looks at it; `icPrescaler` is read by no command (D19). -/
structure Snapshot where
  prescaler : Half := 0
  period : Half := 0
  direction : Direction := .up
  ocMode : BitVec 4 := 0
  pulse : Half := 0
  ocPolarity : OcPolarity := .activeHigh
  icPolarity : IcPolarity := .rising
  icSelection : IcSelection := .direct
  icFilter : BitVec 4 := 0
deriving DecidableEq, Repr

/-- An in-flight command (R51). -/
structure InFlight where
  /-- The decoded command. -/
  cmd : Instr
  /-- The handle fields it read when it started. -/
  snap : Snapshot
  /-- The number of its accesses done: the index of its next access. -/
  index : Nat
  /-- The temporaries its earlier accesses read, oldest first. -/
  temps : List Word
deriving DecidableEq, Repr

/-- A callback program being run by a dispatcher (R221): its own command index and in-flight slot (R51). -/
structure CallbackRun where
  kind : CallbackKind
  inst : Inst
  index : Nat
  slot : Option InFlight
deriving DecidableEq, Repr

/-- What one context (the base level or a frame) keeps between two atomic steps (R51, R314). -/
structure Context where
  slot : Option InFlight
  callback : Option CallbackRun
deriving DecidableEq, Repr

/-- A context between two commands. -/
def Context.idle : Context := ⟨none, none⟩

/-- One active interrupt frame (R44, R314). The continuation of the context it preempted stays in that context's own
slot, unchanged (R314). -/
structure Frame where
  line : Nat
  inst : Inst
  ctx : Context
deriving DecidableEq, Repr

/-- The fault codes of R301 with the info each records. -/
inductive FaultCause where
  /-- Code 1. -/
  | illegalCommand (w : Word)
  /-- Code 2. -/
  | badInstance (w : Word)
  /-- Code 3. -/
  | badChannel (w : Word)
  /-- Code 4. -/
  | unsetHandleField (i : Inst) (fld : BitVec 4)
  /-- Code 5. -/
  | badHandleValue (i : Inst) (fld : BitVec 4) (val : Half)
  /-- Code 6. -/
  | noSuchRegister (i : Inst) (reg : BitVec 4)
  /-- Code 7. -/
  | reservedBitWrite (i : Inst) (reg : BitVec 4) (imm : Half)
  /-- Code 8. -/
  | unclockedAccess (i : Inst) (r : Reg)
  /-- Code 9. -/
  | priorityOutOfRange (line : BitVec 16)
deriving DecidableEq, Repr

/-- Where a fault occurred (R53): the base level, or the frame of a line. -/
inductive FaultContext where
  | base
  | frame (line : Nat)
deriving DecidableEq, Repr

/-- The fault record of R53: code with its info, command word, context. -/
structure FaultRecord where
  cause : FaultCause
  word : Word
  context : FaultContext
deriving DecidableEq, Repr

/-- A record of the event trace (R54). -/
inductive TraceRecord where
  | callback (kind : CallbackKind) (i : Inst)
  | enter (line : Nat)
  | ret (line : Nat)
deriving DecidableEq, Repr

/-- The machine state (R30). -/
structure State where
  /-- The parameters of this launch (R7). -/
  cfg : Params
  /-- The base-level program (R50), fixed at launch. -/
  prog : List Word
  /-- The environment's choices still to come (log entry 2; the model's own field). -/
  schedule : List Turn
  /-- The timer register files `T[i]` (R31). -/
  timers : Vector TimerRegs 8
  /-- The handles `H[i]` (R45). -/
  handles : Vector Handle 8
  /-- `CLK[HS]` (R42). -/
  clkHS : Word
  /-- `CLK[LS]` (R42). -/
  clkLS : Word
  /-- The enable words `E[b]` (R43). -/
  enable : List Word
  /-- The priority words `P[s]` (R43). -/
  prio : List Word
  /-- The pending latches `pending[l]` (R44). -/
  pending : List Bool
  /-- The interrupt stack, top first (R44). -/
  active : List Frame
  /-- The base level's in-flight slot (R51). -/
  base : Context
  /-- The command index (R50). -/
  cpc : Nat
  /-- The result register (R52). -/
  result : Word
  /-- The fault state (R53). -/
  fault : Option FaultRecord
  /-- The event trace, oldest first (R54). -/
  trace : List TraceRecord
  /-- Index of the next free value (log entries 2 and 8; the model's own field). -/
  draws : Nat
deriving DecidableEq, Repr

/-- Why the machine stops. -/
inductive Fault where
  /-- Raised by `step` and by every meaning on a state whose fault state is set: no agent takes a step any more (R300,
  R53). The record is the spec's. Safe: the spec's machine does not go on either. -/
  | stopped (r : FaultRecord)
deriving DecidableEq, Repr

/-- What the model refuses to run. -/
inductive Refusal where
  /-- An instruction without a meaning in `exec`; no arm is left so. Safe. -/
  | notModelled (mnemonic : String)
  /-- Raised by `step` when the launch's parameters are outside the ranges of R7, or break R40 or R221: such a launch is
  rejected (93_implementation_defined.md O13; log entry 5). Safe. -/
  | illegalParameters
  /-- Raised where a callback program would execute IRQ_DISPATCH (R221, D49; log entry 16). Safe. -/
  | dispatchInCallback
  /-- Raised by MemRead and MemWrite for an address that is no register's, or a width that is not the register's own
  (R79, R80; log entry 19). Safe. -/
  | noRegisterAt (addr n : Nat)
deriving DecidableEq, Repr

/-- The machine right after reset, for a launch with parameters `p` (R55, R350). The program, the turns and the counter
of free values are the launch's (log entries 2, 8 and 13). -/
def State.resetWith (p : Params) : State where
  cfg := p
  prog := []
  schedule := []
  timers := Vector.replicate 8 p.timerResetValue
  handles := Vector.replicate 8 .unwritten
  clkHS := 0
  clkLS := 0
  enable := List.replicate p.numBanks 0
  prio := List.replicate p.numPrioSlots 0
  pending := List.replicate (32 * p.numBanks) false
  active := []
  base := .idle
  cpc := 0
  result := 0
  fault := none
  trace := []
  draws := 0

/-- The machine right after reset with the default parameters of R7 (R55). -/
def State.reset : State := State.resetWith Params.default

end Sys2Proof.Machine
end

