-- ==== Sys2Proof/Machine/Registers.lean ====
section
/-!
DEFINITION. The timer register file by name and by index, the named masks, and plain reads and replacements of the parts of
State (10_state.md R31-R43). No access semantics here: those are in Ops.lean.
-/
namespace Sys2Proof

/-- The register of an index field (R31, R239); none for 13..15. -/
def Reg.ofIndex (idx : BitVec 4) : Option Reg :=
  match idx.toNat with
  | 0 => some .cr | 1 => some .ier | 2 => some .sr | 3 => some .mra | 4 => some .mrb
  | 5 => some .epr | 6 => some .psc | 7 => some .arr | 8 => some .ccr1 | 9 => some .ccr2
  | 10 => some .ccr3 | 11 => some .ccr4 | 12 => some .brk | _ => none

/-- The register index of R31. -/
def Reg.index : Reg → BitVec 4
  | .cr => 0 | .ier => 1 | .sr => 2 | .mra => 3 | .mrb => 4 | .epr => 5 | .psc => 6
  | .arr => 7 | .ccr1 => 8 | .ccr2 => 9 | .ccr3 => 10 | .ccr4 => 11 | .brk => 12

/-- All registers, in index order. -/
def Reg.all : List Reg :=
  [.cr, .ier, .sr, .mra, .mrb, .epr, .psc, .arr, .ccr1, .ccr2, .ccr3, .ccr4, .brk]

/-- The named mask of R31. -/
def Reg.namedMask : Reg → Half
  | .cr => 0x0011 | .ier => 0x001F | .sr => 0x001F | .mra => 0xFBFB | .mrb => 0xFBFB
  | .epr => 0xBBBB | .psc => 0xFFFF | .arr => 0xFFFF
  | .ccr1 => 0xFFFF | .ccr2 => 0xFFFF | .ccr3 => 0xFFFF | .ccr4 => 0xFFFF | .brk => 0x8000

/-- The content of a register in a register file. -/
def TimerRegs.get (t : TimerRegs) : Reg → Half
  | .cr => t.cr | .ier => t.ier | .sr => t.sr | .mra => t.mra | .mrb => t.mrb
  | .epr => t.epr | .psc => t.psc | .arr => t.arr | .ccr1 => t.ccr1 | .ccr2 => t.ccr2
  | .ccr3 => t.ccr3 | .ccr4 => t.ccr4 | .brk => t.brk

/-- A register file with one register replaced. -/
def TimerRegs.set (t : TimerRegs) (r : Reg) (v : Half) : TimerRegs :=
  match r with
  | .cr => { t with cr := v } | .ier => { t with ier := v } | .sr => { t with sr := v }
  | .mra => { t with mra := v } | .mrb => { t with mrb := v } | .epr => { t with epr := v }
  | .psc => { t with psc := v } | .arr => { t with arr := v } | .ccr1 => { t with ccr1 := v }
  | .ccr2 => { t with ccr2 := v } | .ccr3 => { t with ccr3 := v } | .ccr4 => { t with ccr4 := v }
  | .brk => { t with brk := v }

/-- `supportsBothEdges(ch)`, P13 (R7, R36). -/
def Params.supportsBothEdges (p : Params) : Channel → Bool
  | .ch1 => p.bothEdges1 | .ch2 => p.bothEdges2 | .ch3 => p.bothEdges3 | .ch4 => p.bothEdges4

/-- The NP bits of EPR that exist: bit `o(ch)+3` only where the channel supports both edges (R36, R71). -/
def Params.eprMask (p : Params) : Half :=
  0x3333 ||| (if p.bothEdges1 then 0x0008 else 0) ||| (if p.bothEdges2 then 0x0080 else 0)
    ||| (if p.bothEdges3 then 0x0800 else 0) ||| (if p.bothEdges4 then 0x8000 else 0)

/-- `wmask` of R71: the named mask, less the NP bits of EPR that do not exist. -/
def Params.writeMask (p : Params) : Reg → Half
  | .epr => p.eprMask
  | .cr => Reg.namedMask .cr | .ier => Reg.namedMask .ier | .sr => Reg.namedMask .sr
  | .mra => Reg.namedMask .mra | .mrb => Reg.namedMask .mrb | .psc => Reg.namedMask .psc
  | .arr => Reg.namedMask .arr | .ccr1 => Reg.namedMask .ccr1 | .ccr2 => Reg.namedMask .ccr2
  | .ccr3 => Reg.namedMask .ccr3 | .ccr4 => Reg.namedMask .ccr4 | .brk => Reg.namedMask .brk

/-- A recognised instance: `i < numInstances` (R7, R99). -/
def Params.hasInst (p : Params) (i : Inst) : Bool := decide (i.toNat < p.numInstances)

/-- The recognised instances, in order. -/
def Params.insts (p : Params) : List Inst :=
  ([0, 1, 2, 3, 4, 5, 6, 7] : List Inst).filter p.hasInst

/-- `clkBus(i)`, P3. -/
def Params.busOf (p : Params) (i : Inst) : Bus := p.clkBus[i.toNat]'i.isLt

/-- `clkBit(i)`, P4. -/
def Params.bitOf (p : Params) (i : Inst) : Nat := (p.clkBit[i.toNat]'i.isLt).toNat

/-- `irqLine(i)`, P5. -/
def Params.lineOf (p : Params) (i : Inst) : Nat := (p.irqLine[i.toNat]'i.isLt).toNat

/-- `callbackProgram(kind, i)`, P15 (R47). -/
def Params.callbackProgram (p : Params) (kind : CallbackKind) (i : Inst) : List Word :=
  match kind with
  | .periodElapsed => p.onPeriodElapsed[i.toNat]'i.isLt
  | .captureEvent => p.onCaptureEvent[i.toNat]'i.isLt

/-- `exists(i, reg)` of R239: the register an index names on an instance, if any. -/
def Params.regAt (p : Params) (i : Inst) (idx : BitVec 4) : Option Reg :=
  match Reg.ofIndex idx with
  | some .brk => if i = p.advancedInst then some .brk else none
  | r => r

namespace Machine

/-- The register file `T[i]`. -/
def State.timer (s : State) (i : Inst) : TimerRegs := s.timers[i.toNat]'i.isLt

/-- The state with `T[i]` replaced. -/
def State.setTimer (s : State) (i : Inst) (t : TimerRegs) : State :=
  { s with timers := s.timers.set i.toNat t i.isLt }

/-- The content of `T[i].REG`, whatever the clock. -/
def State.reg (s : State) (i : Inst) (r : Reg) : Half := (s.timer i).get r

/-- The state with the content of `T[i].REG` replaced, whatever the clock. -/
def State.setReg (s : State) (i : Inst) (r : Reg) (v : Half) : State :=
  s.setTimer i ((s.timer i).set r v)

/-- The handle `H[i]`. -/
def State.handle (s : State) (i : Inst) : Handle := s.handles[i.toNat]'i.isLt

/-- The state with `H[i]` replaced. -/
def State.setHandle (s : State) (i : Inst) (h : Handle) : State :=
  { s with handles := s.handles.set i.toNat h i.isLt }

/-- `CLK[bus]`. -/
def State.clk (s : State) : Bus → Word
  | .hs => s.clkHS
  | .ls => s.clkLS

/-- The state with `CLK[bus]` replaced. -/
def State.setClk (s : State) (b : Bus) (v : Word) : State :=
  match b with
  | .hs => { s with clkHS := v }
  | .ls => { s with clkLS := v }

/-- `clocked(i)` (R42). -/
def State.clocked (s : State) (i : Inst) : Bool :=
  (s.clk (s.cfg.busOf i)).getLsbD (s.cfg.bitOf i)

/-- `E[b]`. -/
def State.enableWord (s : State) (b : Nat) : Word := s.enable.getD b 0

/-- `P[s]`. -/
def State.prioWord (s : State) (n : Nat) : Word := s.prio.getD n 0

/-- `pending[l]`. -/
def State.isPending (s : State) (l : Nat) : Bool := s.pending.getD l false

/-- The state with `pending[l]` replaced. A line at or above 32*numBanks has no latch (R44; log entry 9). -/
def State.setPending (s : State) (l : Nat) (v : Bool) : State :=
  { s with pending := s.pending.set l v }

/-- The lifecycle states of R48, a view of instance `i` that no operation is guarded by. -/
inductive Lifecycle where
  | unconfigured | configured | running | runningWithInterrupt
deriving DecidableEq, Repr

/-- The lifecycle view of R48. -/
def State.lifecycle (s : State) (i : Inst) : Lifecycle :=
  if !s.clocked i then .unconfigured
  else if !(s.reg i .cr).getLsbD 0 then .configured
  else if (s.reg i .ier).getLsbD 0 then .runningWithInterrupt
  else .running

end Machine
end Sys2Proof
end

