-- ==== Sys2Proof/Machine/Flags.lean ====
section
/-!
DEFINITION. The five status flags (10_state.md R34, R41): the write-0-to-clear rule (20_memory.md R72), how the hardware sets
one (60_exceptions.md R320, R321), what the dispatcher tests (46_dispatch.md R220), and the interrupt request (R311).
-/
namespace Sys2Proof.Machine

open Sys2Proof

/-- What a write of `v` leaves in SR (R72): a flag is cleared where `v` has a 0, never set. -/
def srWrite (sr v : Half) : Half := sr &&& (v ||| 0xFFE0#16) &&& 0x001F#16

/-- The one-bit mask of bit `n` of a timer register. -/
def bit16 (n : Nat) : Half := 1#16 <<< n

/-- SR after the hardware has set flag `n` (R320, R321). -/
def flagSet (sr : Half) (n : Nat) : Half := sr ||| bit16 n

/-- The update flag, seen in a value read from SR (R220). -/
def updateSeen (v : Half) : Bool := v.getLsbD 0

/-- Any of the four capture/compare flags, seen in a value read from SR: `s[4:1] ≠ 0` (R220). -/
def captureSeen (v : Half) : Bool := v.extractLsb' 1 4 != 0#4

/-- `request(i)` (R311): the instance is clocked and some flag stands with its enable bit. IER and SR share bit numbers (R33, R34). -/
def State.request (s : State) (i : Inst) : Bool :=
  s.clocked i && (s.reg i .sr &&& s.reg i .ier &&& 0x001F#16) != 0#16

end Sys2Proof.Machine
end

