-- ==== Sys2Proof/Machine/Operands.lean ====
section
/-!
DEFINITION. What a command computes from its operands: the channel register mapper (42_mapper.md R140-R151), the line
index functions (45_nvic.md R200, R201), and the handle fields (10_state.md R45, 47_host.md R231).
-/
namespace Sys2Proof

/-- The channel a raw CH field names (R140): none for 0, 5, 6 and 7. -/
def Channel.ofRaw (ch : BitVec 3) : Option Channel :=
  match ch.toNat with
  | 1 => some .ch1 | 2 => some .ch2 | 3 => some .ch3 | 4 => some .ch4 | _ => none

/-- The channel number 1..4. -/
def Channel.num : Channel → Nat
  | .ch1 => 1 | .ch2 => 2 | .ch3 => 3 | .ch4 => 4

/-- `MR(ch)` (R141). -/
def Channel.modeReg : Channel → Reg
  | .ch1 => .mra | .ch2 => .mra | .ch3 => .mrb | .ch4 => .mrb

/-- `k(ch)` (R142). -/
def Channel.byteShift : Channel → Nat
  | .ch1 => 0 | .ch2 => 8 | .ch3 => 0 | .ch4 => 8

/-- `o(ch) = 4·(ch − 1)` (R143). -/
def Channel.groupShift (c : Channel) : Nat := 4 * (c.num - 1)

/-- `CCR(ch)` (R144). -/
def Channel.ccr : Channel → Reg
  | .ch1 => .ccr1 | .ch2 => .ccr2 | .ch3 => .ccr3 | .ch4 => .ccr4

namespace Machine

/-- `PwmMr(t, ch, m)` (R145): MODE replaced, PE set, every other bit kept. -/
def pwmMr (t : Half) (c : Channel) (m : BitVec 4) : Half :=
  (t &&& ~~~(0x00F0#16 <<< c.byteShift)) ||| (m.setWidth 16 <<< (c.byteShift + 4))
    ||| (0x0008#16 <<< c.byteShift)

/-- `IcMr(t, ch, s, f)` (R146): SEL and FILT replaced, every other bit kept. -/
def icMr (t : Half) (c : Channel) (sel : BitVec 2) (f : BitVec 4) : Half :=
  (t &&& ~~~(0x00F3#16 <<< c.byteShift)) ||| (sel.setWidth 16 <<< c.byteShift)
    ||| (f.setWidth 16 <<< (c.byteShift + 4))

/-- `EprSet(t, ch, pat)` (R148), with the clear mask of P8. -/
def eprSet (clearMask : BitVec 4) (t : Half) (c : Channel) (pat : BitVec 4) : Half :=
  (t &&& ~~~(clearMask.setWidth 16 <<< c.groupShift)) ||| (pat.setWidth 16 <<< c.groupShift)

/-- The code of an output polarity (R45). -/
def OcPolarity.code : OcPolarity → BitVec 1
  | .activeHigh => 0
  | .activeLow => 1

/-- `patPwm(q)` (R149): the polarity bit, with the enable bit 0. -/
def patPwm (q : OcPolarity) : BitVec 4 := (OcPolarity.code q).setWidth 4 <<< 1

/-- `pol(p)` (R150). -/
def IcPolarity.pattern : IcPolarity → BitVec 4
  | .rising => 0b0000
  | .falling => 0b0010
  | .bothEdges => 0b1010

/-- `patIc(p)` (R150): the enable bit and the polarity bits. -/
def patIc (p : IcPolarity) : BitVec 4 := 0b0001#4 ||| IcPolarity.pattern p

/-- `icSelCode`, P12 (R180). -/
def icSelCode (p : Params) : IcSelection → BitVec 2
  | .direct => p.icSelDirect
  | .indirect => p.icSelIndirect
  | .internalTrigger => p.icSelInternalTrigger

/-- The direction bit (R32, R45). -/
def Direction.code : Direction → BitVec 1
  | .up => 0
  | .down => 1

/-- CR with DIR replaced (R121, step 6). -/
def crWithDirection (t : Half) (d : Direction) : Half :=
  (t &&& ~~~0x0010#16) ||| ((Direction.code d).setWidth 16 <<< 4)

/-- `bank(l)` (R200). -/
def lineBank (l : Nat) : Nat := l / 32

/-- `bit(l)` (R200). -/
def lineBit (l : Nat) : Nat := l % 32

/-- `slot(l)` (R200). -/
def lineSlot (l : Nat) : Nat := l / 4

/-- `shift(l)` (R200). -/
def lineShift (l : Nat) : Nat := 8 * (l % 4) + 4

/-- The one-bit mask of a line in its bank (R202). -/
def lineMask (l : Nat) : Word := 1#32 <<< lineBit l

/-- `trunc_32(level << shift(l))` (R204, R207). -/
def prioPattern (level : BitVec 8) (l : Nat) : Word := level.setWidth 32 <<< lineShift l

/-! ## Handle fields -/

/-- `H` with field `fld` written with `val`, when the value is legal for the field (R231); none for BadHandleValue. Field
ids 10 and above name no field and never come out of the decoder (R97). -/
def Handle.write (p : Params) (h : Handle) (fld : BitVec 4) (val : Half) : Option Handle :=
  match fld.toNat with
  | 0 => some { h with prescaler := some val }
  | 1 => some { h with period := some val }
  | 2 => if val = 0 then some { h with direction := some .up }
         else if val = 1 then some { h with direction := some .down } else none
  | 3 => if val.toNat < 16 ∧ val.setWidth 4 ∈ p.legalOcModes
         then some { h with ocMode := some (val.setWidth 4) } else none
  | 4 => some { h with pulse := some val }
  | 5 => if val = 0 then some { h with ocPolarity := some .activeHigh }
         else if val = 1 then some { h with ocPolarity := some .activeLow } else none
  | 6 => if val = 0 then some { h with icPolarity := some .rising }
         else if val = 1 then some { h with icPolarity := some .falling }
         else if val = 2 then some { h with icPolarity := some .bothEdges } else none
  | 7 => if val = 0 then some { h with icSelection := some .direct }
         else if val = 1 then some { h with icSelection := some .indirect }
         else if val = 2 then some { h with icSelection := some .internalTrigger } else none
  | 8 => if val.toNat < 4 then some { h with icPrescaler := some (val.setWidth 2) } else none
  | 9 => if val.toNat < 16 then some { h with icFilter := some (val.setWidth 4) } else none
  | _ => none

/-- A handle field read by a command of instance `i`: unwritten is UnsetHandleField (R120, R301). -/
def needField {α : Type} (i : Inst) (fld : BitVec 4) (v : Option α) : Except FaultCause α :=
  match v with
  | some a => .ok a
  | none => .error (.unsetHandleField i fld)

/-- The snapshot of BASE_INIT (R120, R121): prescaler, period, direction. -/
def snapBase (i : Inst) (h : Handle) : Except FaultCause Snapshot := do
  let p ← needField i 0 h.prescaler
  let a ← needField i 1 h.period
  let d ← needField i 2 h.direction
  return { prescaler := p, period := a, direction := d }

/-- The snapshot of PWM_INIT (R160): ocMode, pulse, ocPolarity; the lowest unwritten id is reported (R302). -/
def snapPwm (i : Inst) (h : Handle) : Except FaultCause Snapshot := do
  let m ← needField i 3 h.ocMode
  let v ← needField i 4 h.pulse
  let q ← needField i 5 h.ocPolarity
  return { ocMode := m, pulse := v, ocPolarity := q }

/-- The snapshot of IC_INIT (R180): icPolarity, icSelection, icFilter; icPrescaler is not read (D19). -/
def snapIc (i : Inst) (h : Handle) : Except FaultCause Snapshot := do
  let p ← needField i 6 h.icPolarity
  let e ← needField i 7 h.icSelection
  let f ← needField i 9 h.icFilter
  return { icPolarity := p, icSelection := e, icFilter := f }

end Machine
end Sys2Proof
end

