-- ==== Sys2Proof/Machine/Ops.lean ====
section
/-!
DEFINITION. The shared operations: register accesses (20_memory.md R71-R77), the atomic accesses of R10 and the access
sequences commands are made of, raising a fault (60_exceptions.md R300), interrupt eligibility, entry and return
(R313-R317), and running a whole command.
-/
namespace Sys2Proof.Machine

open Sys2Proof

/-! ## Register accesses -/

/-- `Rd(i, REG)` (R71, R72, R73). -/
def State.rd (s : State) (i : Inst) (r : Reg) : Except FaultCause Half :=
  if s.clocked i then .ok (s.reg i r)
  else match s.cfg.unclockedPolicy with
    | .fault => .error (.unclockedAccess i r)
    | .ignore => .ok 0

/-- The content a write of `v` leaves in a clocked register (R71; R72 for SR). -/
def storedValue (p : Params) (r : Reg) (old v : Half) : Half :=
  match r with
  | .sr => srWrite old v
  | _ => v &&& p.writeMask r

/-- `Wr(i, REG, v)` (R71, R72, R73). -/
def State.wr (s : State) (i : Inst) (r : Reg) (v : Half) : Except FaultCause State :=
  if s.clocked i then .ok (s.setReg i r (storedValue s.cfg r (s.reg i r) v))
  else match s.cfg.unclockedPolicy with
    | .fault => .error (.unclockedAccess i r)
    | .ignore => .ok s

/-- `WrISER(b, v)` (R76). -/
def State.wrISER (s : State) (b : Nat) (v : Word) : State :=
  { s with enable := s.enable.set b (s.enableWord b ||| v) }

/-- `WrICER(b, v)` (R76). -/
def State.wrICER (s : State) (b : Nat) (v : Word) : State :=
  { s with enable := s.enable.set b (s.enableWord b &&& ~~~v) }

/-- `WrIPR(n, v)` (R77): the low nibble of every byte is not implemented. -/
def State.wrIPR (s : State) (n : Nat) (v : Word) : State :=
  { s with prio := s.prio.set n (v &&& 0xF0F0F0F0#32) }

/-! ## Atomic accesses and command programs -/

/-- One atomic access of a command (R10, R74). -/
inductive Access where
  /-- `t <- Rd(i, REG)`. -/
  | rd (i : Inst) (r : Reg)
  /-- `Wr(i, REG, v)`. -/
  | wr (i : Inst) (r : Reg) (v : Half)
  /-- `t <- RdC(bus)`. -/
  | rdC (b : Bus)
  /-- `WrC(bus, v)`. -/
  | wrC (b : Bus) (v : Word)
  /-- `WrISER(b, v)`. -/
  | wrISER (b : Nat) (v : Word)
  /-- `WrICER(b, v)`. -/
  | wrICER (b : Nat) (v : Word)
  /-- `t <- RdIPR(s)`. -/
  | rdIPR (n : Nat)
  /-- `WrIPR(s, v)`. -/
  | wrIPR (n : Nat) (v : Word)
  /-- IC_READ's `v <- Rd(i, REG)` with `result <- zext_32(v)` as part of the same step (R183). -/
  | rdResult (i : Inst) (r : Reg)
  /-- `result <- v`, a step of its own (R10). REG_RD's; R235 does not number it (log entry 29). -/
  | setResult (v : Word)
  /-- `H[i].field(fld) <- val` (R230). -/
  | setField (i : Inst) (fld : BitVec 4) (val : Half)
  /-- The first part of `Callback(kind, i)` (R221): its record in the trace. -/
  | callback (kind : CallbackKind) (i : Inst)
deriving DecidableEq, Repr

/-- The accesses that read a temporary (R51). -/
def Access.reads : Access → Bool
  | .rd _ _ | .rdC _ | .rdIPR _ => true
  | .wr _ _ _ | .wrC _ _ | .wrISER _ _ | .wrICER _ _ | .wrIPR _ _ => false
  | .rdResult _ _ | .setResult _ | .setField _ _ _ | .callback _ _ => false

/-- One atomic access: the state after it and the value it read (0 where it reads no temporary), or its fault. -/
def perform (a : Access) (s : State) : Except FaultCause (State × Word) :=
  match a with
  | .rd i r => match s.rd i r with
    | .ok v => .ok (s, v.setWidth 32)
    | .error c => .error c
  | .wr i r v => match s.wr i r v with
    | .ok s' => .ok (s', 0)
    | .error c => .error c
  | .rdC b => .ok (s, s.clk b)
  | .wrC b v => .ok (s.setClk b v, 0)
  | .wrISER b v => .ok (s.wrISER b v, 0)
  | .wrICER b v => .ok (s.wrICER b v, 0)
  | .rdIPR n => .ok (s, s.prioWord n)
  | .wrIPR n v => .ok (s.wrIPR n v, 0)
  | .rdResult i r => match s.rd i r with
    | .ok v => .ok ({ s with result := v.setWidth 32 }, 0)
    | .error c => .error c
  | .setResult v => .ok ({ s with result := v }, 0)
  | .setField i fld val => .ok (s.setHandle i (((s.handle i).write s.cfg fld val).getD (s.handle i)), 0)
  | .callback kind i => .ok ({ s with trace := s.trace ++ [.callback kind i] }, 0)

/-- The rest of a command: no access left, or an access and what follows once its value is known. -/
inductive Prog where
  | done
  | act (a : Access) (k : Word → Prog)

/-- `t <- Rd(i, REG)`, as a line of pseudocode. -/
def Prog.rd (i : Inst) (r : Reg) (k : Half → Prog) : Prog := .act (.rd i r) fun v => k (v.setWidth 16)

/-- `t <- RdC(bus)`. -/
def Prog.rdC (b : Bus) (k : Word → Prog) : Prog := .act (.rdC b) k

/-- `t <- RdIPR(s)`. -/
def Prog.rdIPR (n : Nat) (k : Word → Prog) : Prog := .act (.rdIPR n) k

/-- `Wr(i, REG, v)`. -/
def Prog.wr (i : Inst) (r : Reg) (v : Half) (k : Prog) : Prog := .act (.wr i r v) fun _ => k

/-- A line that reads no temporary. -/
def Prog.perform (a : Access) (k : Prog) : Prog := .act a fun _ => k

/-- What is left of a command after `n` accesses that read the temporaries `ts` (R51). -/
def Prog.resume : Prog → Nat → List Word → Prog
  | p, 0, _ => p
  | .done, _ + 1, _ => .done
  | .act a k, n + 1, ts =>
    if a.reads then
      match ts with
      | t :: ts' => (k t).resume n ts'
      | [] => .done
    else (k 0).resume n ts

/-! ## Contexts, completion, faults -/

/-- The current context of R310: the top frame's, or the base level's. -/
def State.current (s : State) : Context :=
  match s.active with
  | [] => s.base
  | f :: _ => f.ctx

/-- The state with the current context replaced. -/
def State.setCurrent (s : State) (c : Context) : State :=
  match s.active with
  | [] => { s with base := c }
  | f :: fs => { s with active := { f with ctx := c } :: fs }

/-- The context a fault is recorded in (R53). -/
def State.faultContext (s : State) : FaultContext :=
  match s.active with
  | [] => .base
  | f :: _ => .frame f.line

/-- `raise Fault(code, info)` by command word `w` (R300): the fault state is set and nothing is rolled back. Every agent
stops from the next step on. -/
def State.raise (s : State) (c : FaultCause) (w : Word) : State :=
  { s with fault := some { cause := c, word := w, context := s.faultContext } }

/-- A command completes: `cpc <- cpc + 1` at the base level (R50); a frame's dispatcher has no command index to advance. -/
def State.advance (s : State) : State :=
  match s.active with
  | [] => { s with cpc := s.cpc + 1 }
  | _ :: _ => s

/-! ## Interrupts -/

/-- `prio(l)` (R201). A line whose slot is outside the table has no byte: a free value (log entry 8). -/
def State.linePriority (s : State) (l : Nat) : BitVec 4 :=
  if lineSlot l < s.cfg.numPrioSlots then (s.prioWord (lineSlot l)).extractLsb' (lineShift l) 4
  else Config.priorityOutsideTable l s.draws

/-- The line enable test of R313: `bank(l) < numBanks` and `E[bank(l)][bit(l)] = 1`. -/
def State.lineEnabled (s : State) (l : Nat) : Bool :=
  decide (lineBank l < s.cfg.numBanks) && (s.enableWord (lineBank l)).getLsbD (lineBit l)

/-- The preemption test of R316: strictly more urgent than the top frame's line. -/
def State.mayPreempt (s : State) (l : Nat) : Bool :=
  match s.active with
  | [] => true
  | f :: _ => decide ((s.linePriority l).toNat < (s.linePriority f.line).toNat)

/-- The line of instance `i` is eligible (R313). -/
def State.eligible (s : State) (i : Inst) : Bool :=
  s.cfg.hasInst i && s.isPending (s.cfg.lineOf i) && s.lineEnabled (s.cfg.lineOf i)
    && s.fault.isNone && s.mayPreempt (s.cfg.lineOf i)

/-- Instance `i`'s line is taken before instance `j`'s: lower `prio`, then lower line number (R317). -/
def State.takenBefore (s : State) (i j : Inst) : Bool :=
  let pi := (s.linePriority (s.cfg.lineOf i)).toNat
  let pj := (s.linePriority (s.cfg.lineOf j)).toNat
  decide (pi < pj) || (decide (pi = pj) && decide (s.cfg.lineOf i < s.cfg.lineOf j))

/-- The better of a candidate so far and an instance (R317). -/
def State.better (s : State) (best : Option Inst) (i : Inst) : Option Inst :=
  if s.eligible i then
    match best with
    | none => some i
    | some j => if s.takenBefore i j then some i else some j
  else best

/-- The bound of R319 on the depth of `active`: the number of distinct priority values. -/
def maxDepth : Nat := 16

/-- The instance whose line interrupt entry takes now, if any line is eligible (R313, R317). At the depth of R319 none is
taken (log entry 22). -/
def State.nextEntry (s : State) : Option Inst :=
  if s.active.length < maxDepth then s.cfg.insts.foldl s.better none else none

/-- The context a frame for instance `i` starts with: IRQ_DISPATCH in its slot, no access done (R314). -/
def dispatchContext (i : Inst) : Context :=
  ⟨some { cmd := .irqDispatch i, snap := {}, index := 0, temps := [] }, none⟩

/-- Interrupt entry `ENTER(l)` for the line of instance `i` (R314). The interrupted context stays as it is. -/
def State.enterInterrupt (s : State) (i : Inst) : State :=
  { s with
    pending := s.pending.set (s.cfg.lineOf i) false
    active := { line := s.cfg.lineOf i, inst := i, ctx := dispatchContext i } :: s.active
    trace := s.trace ++ [.enter (s.cfg.lineOf i)]
    draws := s.draws + 1 }

/-- Interrupt return (R315): the frame is popped and recorded, nothing is restored. Its guard, that the top frame's
dispatcher has completed, is tested by `contextStep`. -/
def State.returnFromInterrupt (s : State) : State :=
  match s.active with
  | [] => s
  | f :: fs => { s with active := fs, trace := s.trace ++ [.ret f.line] }

/-! ## The environment -/

/-- The next turns of the environment `env` come into the list of turns. -/
def State.loadTurns (s : State) (env : Environment) : State :=
  { s with schedule := env s.draws, draws := s.draws + 1 }

/-! ## Whole commands -/

/-- How running a command's accesses in a row ends. -/
inductive Run where
  /-- Every access performed. -/
  | ok (s : State)
  /-- A fault (R300), with the command word that raised it and the state as the earlier accesses left it. -/
  | fault (c : FaultCause) (w : Word) (s : State)
  | refused (r : Refusal)

/-- What follows the record of a callback: the callback program, run to completion (R221). -/
abbrev CallbackRunner := CallbackKind → Inst → State → Run

/-- The accesses of one command in a row, no other agent's step between them. `w` is the command word (R53). -/
def runProg (onCallback : CallbackRunner) (w : Word) : Prog → State → Run
  | .done, s => .ok s
  | .act a k, s =>
    match perform a s with
    | .error c => .fault c w s
    | .ok (s', v) =>
      match a with
      | .callback kind i =>
        match onCallback kind i s' with
        | .ok s'' => runProg onCallback w (k v) s''
        | stop => stop
      | _ => runProg onCallback w (k v) s'

/-- The runner of a command that invokes no callback. -/
def noCallback : CallbackRunner := fun _ _ _ => .refused .dispatchInCallback

/-- A whole command in the current context: its checks and handle snapshot (R302), then its accesses in a row, then its
completion (R50) or its fault (R300). -/
def wholeCommand (onCallback : CallbackRunner) (cmd : Instr) (start : Except FaultCause Snapshot)
    (prog : Snapshot → Prog) (s : State) : Host.Outcome State Fault Refusal :=
  match s.fault with
  | some r => .fault (.stopped r)
  | none =>
    match start with
    | .error c => .next (s.raise c (encode cmd))
    | .ok snap =>
      match runProg onCallback (encode cmd) (prog snap) s with
      | .ok s' => .next s'.advance
      | .fault c w s' => .next (s'.raise c w)
      | .refused r => .refused r

/-! ## The checks of R302 -/

/-- The instance check (R120). -/
def checkInst (cmd : Instr) (i : Inst) (s : State) : Except FaultCause Unit :=
  if s.cfg.hasInst i then .ok () else .error (.badInstance (encode cmd))

/-- The instance check of a command that reads no handle field. -/
def startInst (cmd : Instr) (i : Inst) (s : State) : Except FaultCause Snapshot :=
  match checkInst cmd i s with
  | .error c => .error c
  | .ok () => .ok {}

/-- The instance check and then the channel check of a per-channel command, then `snap` for a valid channel (R140, R302).
Under the noop policy a bad channel passes with an empty snapshot, and the command then makes no access. -/
def startChannel (cmd : Instr) (i : Inst) (ch : BitVec 3) (snap : Except FaultCause Snapshot)
    (s : State) : Except FaultCause Snapshot :=
  match checkInst cmd i s with
  | .error c => .error c
  | .ok () =>
    match Channel.ofRaw ch with
    | some _ => snap
    | none =>
      match s.cfg.badChannelPolicy with
      | .noop => .ok {}
      | .fault => .error (.badChannel (encode cmd))

/-- The accesses of a per-channel command: none for a bad channel (R140). -/
def channelProg (ch : BitVec 3) (p : Channel → Prog) : Prog :=
  match Channel.ofRaw ch with
  | some c => p c
  | none => .done

end Sys2Proof.Machine
end

