-- ==== Sys2Proof/Machine/Clock.lean ====
section
/-!
DEFINITION. The Clock Enablement Resolver (40_clock.md R110-R112).
-/
namespace Sys2Proof.Machine

open Sys2Proof

/-- `ClockEnable(i)` of R110 for a recognised instance, followed by `k`: the first two steps of BASE_INIT too (R111). -/
def clockEnable (p : Params) (i : Inst) (k : Prog) : Prog :=
  .rdC (p.busOf i) fun c =>
  .perform (.wrC (p.busOf i) (c ||| (1#32 <<< p.bitOf i))) k

/-- CLK_EN makes no check and reads no handle field (R110). -/
def startClkEn (_i : Inst) (_s : State) : Except FaultCause Snapshot := .ok {}

/-- The accesses of CLK_EN (R110): none for an unrecognised instance. -/
def progClkEn (p : Params) (i : Inst) : Prog :=
  if p.hasInst i then clockEnable p i .done else .done

/-- CLK_EN (R110). -/
def execClkEn (i : Inst) (s : State) : Host.Outcome State Fault Refusal :=
  wholeCommand noCallback (.clkEn i) (startClkEn i s) (fun _ => progClkEn s.cfg i) s

end Sys2Proof.Machine
end

