-- ==== Sys2Proof/Machine/Base.lean ====
section
/-!
DEFINITION. The Base Timer Lifecycle (41_base.md R120-R126).
-/
namespace Sys2Proof.Machine

open Sys2Proof

/-- The checks and snapshot of BASE_INIT (R120, R121). -/
def startBaseInit (i : Inst) (s : State) : Except FaultCause Snapshot :=
  match checkInst (.baseInit i) i s with
  | .error c => .error c
  | .ok () => snapBase i (s.handle i)

/-- The accesses of BASE_INIT (R121). -/
def progBaseInit (p : Params) (i : Inst) (h : Snapshot) : Prog :=
  clockEnable p i <|
  .wr i .psc h.prescaler <|
  .wr i .arr h.period <|
  .rd i .cr fun t =>
  .wr i .cr (crWithDirection t h.direction) .done

/-- BASE_INIT (R121). -/
def execBaseInit (i : Inst) (s : State) : Host.Outcome State Fault Refusal :=
  wholeCommand noCallback (.baseInit i) (startBaseInit i s) (progBaseInit s.cfg i) s

/-- The check of BASE_START (R120, R122). -/
def startBaseStart (i : Inst) (s : State) : Except FaultCause Snapshot := startInst (.baseStart i) i s

/-- The accesses of BASE_START (R122). -/
def progBaseStart (i : Inst) : Prog :=
  .rd i .cr fun t =>
  .wr i .cr (t ||| 0x0001#16) .done

/-- BASE_START (R122). -/
def execBaseStart (i : Inst) (s : State) : Host.Outcome State Fault Refusal :=
  wholeCommand noCallback (.baseStart i) (startBaseStart i s) (fun _ => progBaseStart i) s

/-- The check of BASE_STOP (R120, R123). -/
def startBaseStop (i : Inst) (s : State) : Except FaultCause Snapshot := startInst (.baseStop i) i s

/-- The accesses of BASE_STOP (R123). -/
def progBaseStop (i : Inst) : Prog :=
  .rd i .cr fun t =>
  .wr i .cr (t &&& ~~~0x0001#16) .done

/-- BASE_STOP (R123). -/
def execBaseStop (i : Inst) (s : State) : Host.Outcome State Fault Refusal :=
  wholeCommand noCallback (.baseStop i) (startBaseStop i s) (fun _ => progBaseStop i) s

/-- The check of BASE_START_IT (R120, R124). -/
def startBaseStartIt (i : Inst) (s : State) : Except FaultCause Snapshot := startInst (.baseStartIt i) i s

/-- The accesses of BASE_START_IT (R124): UIE strictly before CEN. -/
def progBaseStartIt (i : Inst) : Prog :=
  .rd i .ier fun t =>
  .wr i .ier (t ||| 0x0001#16) <|
  .rd i .cr fun u =>
  .wr i .cr (u ||| 0x0001#16) .done

/-- BASE_START_IT (R124). -/
def execBaseStartIt (i : Inst) (s : State) : Host.Outcome State Fault Refusal :=
  wholeCommand noCallback (.baseStartIt i) (startBaseStartIt i s) (fun _ => progBaseStartIt i) s

/-- The check of BASE_STOP_IT (R120, R125). -/
def startBaseStopIt (i : Inst) (s : State) : Except FaultCause Snapshot := startInst (.baseStopIt i) i s

/-- The accesses of BASE_STOP_IT (R125): CEN before UIE (D24). -/
def progBaseStopIt (i : Inst) : Prog :=
  .rd i .cr fun u =>
  .wr i .cr (u &&& ~~~0x0001#16) <|
  .rd i .ier fun t =>
  .wr i .ier (t &&& ~~~0x0001#16) .done

/-- BASE_STOP_IT (R125). -/
def execBaseStopIt (i : Inst) (s : State) : Host.Outcome State Fault Refusal :=
  wholeCommand noCallback (.baseStopIt i) (startBaseStopIt i s) (fun _ => progBaseStopIt i) s

end Sys2Proof.Machine
end

