-- ==== Sys2Proof/Machine/Capture.lean ====
section
/-!
DEFINITION. Input capture control (44_ic.md R180-R186).
-/
namespace Sys2Proof.Machine

open Sys2Proof

/-- The checks and snapshot of IC_INIT (R180). -/
def startIcInit (i : Inst) (ch : BitVec 3) (s : State) : Except FaultCause Snapshot :=
  startChannel (.icInit i ch) i ch (snapIc i (s.handle i)) s

/-- The accesses of IC_INIT (R180). -/
def progIcInit (p : Params) (i : Inst) (ch : BitVec 3) (h : Snapshot) : Prog :=
  channelProg ch fun c =>
  .rd i c.modeReg fun t1 =>
  .wr i c.modeReg (icMr t1 c (icSelCode p h.icSelection) h.icFilter) <|
  .rd i .epr fun t2 =>
  .wr i .epr (eprSet p.ccerClearMask t2 c (patIc h.icPolarity)) .done

/-- IC_INIT (R180). -/
def execIcInit (i : Inst) (ch : BitVec 3) (s : State) : Host.Outcome State Fault Refusal :=
  wholeCommand noCallback (.icInit i ch) (startIcInit i ch s) (progIcInit s.cfg i ch) s

/-- The checks of IC_START_IT (R181). -/
def startIcStartIt (i : Inst) (ch : BitVec 3) (s : State) : Except FaultCause Snapshot :=
  startChannel (.icStartIt i ch) i ch (.ok {}) s

/-- The accesses of IC_START_IT (R181). -/
def progIcStartIt (i : Inst) (ch : BitVec 3) : Prog :=
  channelProg ch fun c =>
  .rd i .ier fun t =>
  .wr i .ier (t ||| (0x0001#16 <<< c.num)) <|
  .rd i .cr fun u =>
  .wr i .cr (u ||| 0x0001#16) .done

/-- IC_START_IT (R181). -/
def execIcStartIt (i : Inst) (ch : BitVec 3) (s : State) : Host.Outcome State Fault Refusal :=
  wholeCommand noCallback (.icStartIt i ch) (startIcStartIt i ch s) (fun _ => progIcStartIt i ch) s

/-- The checks of IC_STOP_IT (R182). -/
def startIcStopIt (i : Inst) (ch : BitVec 3) (s : State) : Except FaultCause Snapshot :=
  startChannel (.icStopIt i ch) i ch (.ok {}) s

/-- The accesses of IC_STOP_IT (R182): the counter is left running (D25). -/
def progIcStopIt (i : Inst) (ch : BitVec 3) : Prog :=
  channelProg ch fun c =>
  .rd i .ier fun t =>
  .wr i .ier (t &&& ~~~(0x0001#16 <<< c.num)) .done

/-- IC_STOP_IT (R182). -/
def execIcStopIt (i : Inst) (ch : BitVec 3) (s : State) : Host.Outcome State Fault Refusal :=
  wholeCommand noCallback (.icStopIt i ch) (startIcStopIt i ch s) (fun _ => progIcStopIt i ch) s

/-- The checks of IC_READ (R183). -/
def startIcRead (i : Inst) (ch : BitVec 3) (s : State) : Except FaultCause Snapshot :=
  startChannel (.icRead i ch) i ch (.ok {}) s

/-- The access of IC_READ (R183). -/
def progIcRead (i : Inst) (ch : BitVec 3) : Prog :=
  channelProg ch fun c =>
  .perform (.rdResult i c.ccr) .done

/-- IC_READ (R183). -/
def execIcRead (i : Inst) (ch : BitVec 3) (s : State) : Host.Outcome State Fault Refusal :=
  wholeCommand noCallback (.icRead i ch) (startIcRead i ch s) (fun _ => progIcRead i ch) s

end Sys2Proof.Machine
end

