-- ==== Sys2Proof/Machine/Nvic.lean ====
section
/-!
DEFINITION. The Interrupt Controller Adapter (45_nvic.md R200-R208).
-/
namespace Sys2Proof.Machine

open Sys2Proof

/-- NVIC_SET_EN makes no check (R202). -/
def startNvicSetEn (_en : BitVec 1) (_line : BitVec 16) (_s : State) : Except FaultCause Snapshot := .ok {}

/-- The access of NVIC_SET_EN (R202): the one-bit mask to the enable or the disable word of banks 0 to 2, nothing above. -/
def progNvicSetEn (en : BitVec 1) (line : BitVec 16) : Prog :=
  let l := line.toNat
  if lineBank l ≤ 2 then
    if en = 1 then .perform (.wrISER (lineBank l) (lineMask l)) .done
    else .perform (.wrICER (lineBank l) (lineMask l)) .done
  else .done

/-- NVIC_SET_EN (R202). -/
def execNvicSetEn (en : BitVec 1) (line : BitVec 16) (s : State) : Host.Outcome State Fault Refusal :=
  wholeCommand noCallback (.nvicSetEn en line) (startNvicSetEn en line s)
    (fun _ => progNvicSetEn en line) s

/-- The check of NVIC_SET_PRIO (R204, R205). -/
def startNvicSetPrio (_level : BitVec 8) (line : BitVec 16) (s : State) : Except FaultCause Snapshot :=
  if lineSlot line.toNat < s.cfg.numPrioSlots then .ok {} else .error (.priorityOutOfRange line)

/-- The accesses of NVIC_SET_PRIO (R204): the level is OR'd into the line's byte. -/
def progNvicSetPrio (level : BitVec 8) (line : BitVec 16) : Prog :=
  let l := line.toNat
  .rdIPR (lineSlot l) fun t =>
  .perform (.wrIPR (lineSlot l) (t ||| prioPattern level l)) .done

/-- NVIC_SET_PRIO (R204). -/
def execNvicSetPrio (level : BitVec 8) (line : BitVec 16) (s : State) :
    Host.Outcome State Fault Refusal :=
  wholeCommand noCallback (.nvicSetPrio level line) (startNvicSetPrio level line s)
    (fun _ => progNvicSetPrio level line) s

end Sys2Proof.Machine
end

