-- ==== Sys2Proof/Machine/Pwm.lean ====
section
/-!
DEFINITION. PWM control (43_pwm.md R160-R164).
-/
namespace Sys2Proof.Machine

open Sys2Proof

/-- The checks and snapshot of PWM_INIT (R160). -/
def startPwmInit (i : Inst) (ch : BitVec 3) (s : State) : Except FaultCause Snapshot :=
  startChannel (.pwmInit i ch) i ch (snapPwm i (s.handle i)) s

/-- The last two accesses of PWM_INIT (R160, steps 6 and 7): on the advanced instance only, MOE is set. -/
def setMasterOutput (p : Params) (i : Inst) : Prog :=
  if i = p.advancedInst then
    .rd i .brk fun t3 =>
    .wr i .brk (t3 ||| 0x8000#16) .done
  else .done

/-- The accesses of PWM_INIT (R160). -/
def progPwmInit (p : Params) (i : Inst) (ch : BitVec 3) (h : Snapshot) : Prog :=
  channelProg ch fun c =>
  .rd i c.modeReg fun t1 =>
  .wr i c.modeReg (pwmMr t1 c h.ocMode) <|
  .rd i .epr fun t2 =>
  .wr i .epr (eprSet p.ccerClearMask t2 c (patPwm h.ocPolarity)) <|
  .wr i c.ccr h.pulse <|
  setMasterOutput p i

/-- PWM_INIT (R160). -/
def execPwmInit (i : Inst) (ch : BitVec 3) (s : State) : Host.Outcome State Fault Refusal :=
  wholeCommand noCallback (.pwmInit i ch) (startPwmInit i ch s) (progPwmInit s.cfg i ch) s

/-- The checks of PWM_START (R161). -/
def startPwmStart (i : Inst) (ch : BitVec 3) (s : State) : Except FaultCause Snapshot :=
  startChannel (.pwmStart i ch) i ch (.ok {}) s

/-- The accesses of PWM_START (R161). -/
def progPwmStart (i : Inst) (ch : BitVec 3) : Prog :=
  channelProg ch fun c =>
  .rd i .epr fun t =>
  .wr i .epr (t ||| (0x0001#16 <<< c.groupShift)) .done

/-- PWM_START (R161). -/
def execPwmStart (i : Inst) (ch : BitVec 3) (s : State) : Host.Outcome State Fault Refusal :=
  wholeCommand noCallback (.pwmStart i ch) (startPwmStart i ch s) (fun _ => progPwmStart i ch) s

/-- The checks of PWM_STOP (R162). -/
def startPwmStop (i : Inst) (ch : BitVec 3) (s : State) : Except FaultCause Snapshot :=
  startChannel (.pwmStop i ch) i ch (.ok {}) s

/-- The accesses of PWM_STOP (R162). -/
def progPwmStop (i : Inst) (ch : BitVec 3) : Prog :=
  channelProg ch fun c =>
  .rd i .epr fun t =>
  .wr i .epr (t &&& ~~~(0x0001#16 <<< c.groupShift)) .done

/-- PWM_STOP (R162). -/
def execPwmStop (i : Inst) (ch : BitVec 3) (s : State) : Host.Outcome State Fault Refusal :=
  wholeCommand noCallback (.pwmStop i ch) (startPwmStop i ch s) (fun _ => progPwmStop i ch) s

/-- The checks of PWM_SET_DUTY (R163). -/
def startPwmSetDuty (i : Inst) (ch : BitVec 3) (imm : Half) (s : State) : Except FaultCause Snapshot :=
  startChannel (.pwmSetDuty i ch imm) i ch (.ok {}) s

/-- The access of PWM_SET_DUTY (R163). -/
def progPwmSetDuty (i : Inst) (ch : BitVec 3) (imm : Half) : Prog :=
  channelProg ch fun c =>
  .wr i c.ccr imm .done

/-- PWM_SET_DUTY (R163). -/
def execPwmSetDuty (i : Inst) (ch : BitVec 3) (imm : Half) (s : State) :
    Host.Outcome State Fault Refusal :=
  wholeCommand noCallback (.pwmSetDuty i ch imm) (startPwmSetDuty i ch imm s)
    (fun _ => progPwmSetDuty i ch imm) s

end Sys2Proof.Machine
end

