-- ==== Sys2Proof/Machine/RawAccess.lean ====
section
/-!
DEFINITION. The handle contract and raw register access (47_host.md R230-R239).
-/
namespace Sys2Proof.Machine

open Sys2Proof

/-- The checks of HSET (R230, R231). A field id of 10 or above never comes out of the decoder (R97); as a term it is
IllegalCommand, like the word it would encode to (log entry 20). -/
def startHset (i : Inst) (fld : BitVec 4) (val : Half) (s : State) : Except FaultCause Snapshot :=
  if handleFieldExists fld then
    match checkInst (.hset i fld val) i s with
    | .error c => .error c
    | .ok () =>
      match (s.handle i).write s.cfg fld val with
      | some _ => .ok {}
      | none => .error (.badHandleValue i fld val)
  else .error (.illegalCommand (encode (.hset i fld val)))

/-- The step of HSET (R230). -/
def progHset (i : Inst) (fld : BitVec 4) (val : Half) : Prog :=
  .perform (.setField i fld val) .done

/-- HSET (R230). -/
def execHset (i : Inst) (fld : BitVec 4) (val : Half) (s : State) : Host.Outcome State Fault Refusal :=
  wholeCommand noCallback (.hset i fld val) (startHset i fld val s) (fun _ => progHset i fld val) s

/-- The accesses of a command that names a register by index: none where no register is named, which its check has
turned into NoSuchRegister before (R239). -/
def registerProg (p : Params) (i : Inst) (idx : BitVec 4) (k : Reg → Prog) : Prog :=
  match p.regAt i idx with
  | some r => k r
  | none => .done

/-- The checks of REG_RD (R235). -/
def startRegRd (i : Inst) (idx : BitVec 4) (s : State) : Except FaultCause Snapshot :=
  match checkInst (.regRd i idx) i s with
  | .error c => .error c
  | .ok () =>
    match s.cfg.regAt i idx with
    | some _ => .ok {}
    | none => .error (.noSuchRegister i idx)

/-- The steps of REG_RD (R235): the read, then the write of `result`, each primitive of R10 its own step (log entry 29). -/
def progRegRd (p : Params) (i : Inst) (idx : BitVec 4) : Prog :=
  registerProg p i idx fun r =>
  .rd i r fun v =>
  .perform (.setResult (v.setWidth 32)) .done

/-- REG_RD (R235). -/
def execRegRd (i : Inst) (idx : BitVec 4) (s : State) : Host.Outcome State Fault Refusal :=
  wholeCommand noCallback (.regRd i idx) (startRegRd i idx s) (fun _ => progRegRd s.cfg i idx) s

/-- A raw write would set an unnamed bit of a register other than SR (R237). -/
def setsReservedBit (r : Reg) (imm : Half) : Bool :=
  r != .sr && (imm &&& ~~~r.namedMask) != 0#16

/-- The checks of REG_WR (R236, R237). -/
def startRegWr (i : Inst) (idx : BitVec 4) (imm : Half) (s : State) : Except FaultCause Snapshot :=
  match checkInst (.regWr i idx imm) i s with
  | .error c => .error c
  | .ok () =>
    match s.cfg.regAt i idx with
    | some r => if setsReservedBit r imm then .error (.reservedBitWrite i idx imm) else .ok {}
    | none => .error (.noSuchRegister i idx)

/-- The access of REG_WR (R236). -/
def progRegWr (p : Params) (i : Inst) (idx : BitVec 4) (imm : Half) : Prog :=
  registerProg p i idx fun r =>
  .wr i r imm .done

/-- REG_WR (R236). -/
def execRegWr (i : Inst) (idx : BitVec 4) (imm : Half) (s : State) : Host.Outcome State Fault Refusal :=
  wholeCommand noCallback (.regWr i idx imm) (startRegWr i idx imm s)
    (fun _ => progRegWr s.cfg i idx imm) s

end Sys2Proof.Machine
end

