-- ==== Sys2Proof/Machine/Dispatcher.lean ====
section
/-!
DEFINITION. The Event Dispatcher (46_dispatch.md R220-R224), every command's checks and accesses by its constructor, and
callback programs run to completion (R221).
-/
namespace Sys2Proof.Machine

open Sys2Proof

/-- The check of IRQ_DISPATCH (R220). -/
def startIrqDispatch (i : Inst) (s : State) : Except FaultCause Snapshot := startInst (.irqDispatch i) i s

/-- The last step of IRQ_DISPATCH (R220, step 4): one CaptureEvent callback for any of the four flags seen. -/
def captureStep (i : Inst) (seen : Half) : Prog :=
  if captureSeen seen then .perform (.callback .captureEvent i) .done else .done

/-- The steps of IRQ_DISPATCH (R220): one read of SR, then UIF cleared alone and its callback, then the capture callback. -/
def progIrqDispatch (i : Inst) : Prog :=
  .rd i .sr fun seen =>
  if updateSeen seen then
    .wr i .sr 0xFFFE#16 <|
    .perform (.callback .periodElapsed i) <|
    captureStep i seen
  else captureStep i seen

/-- The checks and handle snapshot of each command (R302). -/
def commandStart (cmd : Instr) (s : State) : Except FaultCause Snapshot :=
  match cmd with
  | .clkEn i => startClkEn i s
  | .baseInit i => startBaseInit i s
  | .baseStart i => startBaseStart i s
  | .baseStop i => startBaseStop i s
  | .baseStartIt i => startBaseStartIt i s
  | .baseStopIt i => startBaseStopIt i s
  | .pwmInit i ch => startPwmInit i ch s
  | .pwmStart i ch => startPwmStart i ch s
  | .pwmStop i ch => startPwmStop i ch s
  | .pwmSetDuty i ch imm => startPwmSetDuty i ch imm s
  | .icInit i ch => startIcInit i ch s
  | .icStartIt i ch => startIcStartIt i ch s
  | .icStopIt i ch => startIcStopIt i ch s
  | .icRead i ch => startIcRead i ch s
  | .irqDispatch i => startIrqDispatch i s
  | .nvicSetEn en line => startNvicSetEn en line s
  | .nvicSetPrio level line => startNvicSetPrio level line s
  | .regRd i r => startRegRd i r s
  | .regWr i r imm => startRegWr i r imm s
  | .hset i fld val => startHset i fld val s

/-- The accesses of each command, for the handle fields it read when it started. -/
def commandProg (cmd : Instr) (p : Params) (h : Snapshot) : Prog :=
  match cmd with
  | .clkEn i => progClkEn p i
  | .baseInit i => progBaseInit p i h
  | .baseStart i => progBaseStart i
  | .baseStop i => progBaseStop i
  | .baseStartIt i => progBaseStartIt i
  | .baseStopIt i => progBaseStopIt i
  | .pwmInit i ch => progPwmInit p i ch h
  | .pwmStart i ch => progPwmStart i ch
  | .pwmStop i ch => progPwmStop i ch
  | .pwmSetDuty i ch imm => progPwmSetDuty i ch imm
  | .icInit i ch => progIcInit p i ch h
  | .icStartIt i ch => progIcStartIt i ch
  | .icStopIt i ch => progIcStopIt i ch
  | .icRead i ch => progIcRead i ch
  | .irqDispatch i => progIrqDispatch i
  | .nvicSetEn en line => progNvicSetEn en line
  | .nvicSetPrio level line => progNvicSetPrio level line
  | .regRd i r => progRegRd p i r
  | .regWr i r imm => progRegWr p i r imm
  | .hset i fld val => progHset i fld val

/-- The commands a callback program may not contain (R221, D49). -/
def isDispatch : Instr → Bool
  | .irqDispatch _ => true
  | .clkEn _ | .baseInit _ | .baseStart _ | .baseStop _ | .baseStartIt _ | .baseStopIt _ => false
  | .pwmInit _ _ | .pwmStart _ _ | .pwmStop _ _ | .pwmSetDuty _ _ _ => false
  | .icInit _ _ | .icStartIt _ _ | .icStopIt _ _ | .icRead _ _ => false
  | .nvicSetEn _ _ | .nvicSetPrio _ _ | .regRd _ _ | .regWr _ _ _ | .hset _ _ _ => false

/-- One command of a callback program, whole (R221): each command has the semantics of its own rule. -/
def runCallbackWord (w : Word) (s : State) : Run :=
  match decode w with
  | .error _ => .fault (.illegalCommand w) w s
  | .ok cmd =>
    if isDispatch cmd then .refused .dispatchInCallback
    else
      match commandStart cmd s with
      | .error c => .fault c w s
      | .ok snap => runProg noCallback w (commandProg cmd s.cfg snap) s

/-- The commands of a callback program in order, to completion (R221). -/
def runWords : List Word → State → Run
  | [], s => .ok s
  | w :: ws, s =>
    match runCallbackWord w s with
    | .ok s' => runWords ws s'
    | stop => stop

/-- The second part of `Callback(kind, i)` (R221). -/
def runCallbackProgram : CallbackRunner := fun kind i s => runWords (s.cfg.callbackProgram kind i) s

/-- IRQ_DISPATCH (R220). -/
def execIrqDispatch (i : Inst) (s : State) : Host.Outcome State Fault Refusal :=
  wholeCommand runCallbackProgram (.irqDispatch i) (startIrqDispatch i s) (fun _ => progIrqDispatch i) s

end Sys2Proof.Machine
end

