-- ==== Sys2Proof/Machine/Dispatch.lean ====
section
/-!
DEFINITION. The meaning of each command, by its constructor: the whole command in the current context, with no step of another
agent between its accesses (log entry 1).
-/
namespace Sys2Proof.Machine

open Sys2Proof

/-- The meaning of a command. -/
def exec (i : Instr) (s : State) : Host.Outcome State Fault Refusal :=
  match i with
  | .clkEn inst => Sys2Proof.Machine.execClkEn inst s
  | .baseInit inst => Sys2Proof.Machine.execBaseInit inst s
  | .baseStart inst => Sys2Proof.Machine.execBaseStart inst s
  | .baseStop inst => Sys2Proof.Machine.execBaseStop inst s
  | .baseStartIt inst => Sys2Proof.Machine.execBaseStartIt inst s
  | .baseStopIt inst => Sys2Proof.Machine.execBaseStopIt inst s
  | .pwmInit inst ch => Sys2Proof.Machine.execPwmInit inst ch s
  | .pwmStart inst ch => Sys2Proof.Machine.execPwmStart inst ch s
  | .pwmStop inst ch => Sys2Proof.Machine.execPwmStop inst ch s
  | .pwmSetDuty inst ch imm => Sys2Proof.Machine.execPwmSetDuty inst ch imm s
  | .icInit inst ch => Sys2Proof.Machine.execIcInit inst ch s
  | .icStartIt inst ch => Sys2Proof.Machine.execIcStartIt inst ch s
  | .icStopIt inst ch => Sys2Proof.Machine.execIcStopIt inst ch s
  | .icRead inst ch => Sys2Proof.Machine.execIcRead inst ch s
  | .irqDispatch inst => Sys2Proof.Machine.execIrqDispatch inst s
  | .nvicSetEn en line => Sys2Proof.Machine.execNvicSetEn en line s
  | .nvicSetPrio level line => Sys2Proof.Machine.execNvicSetPrio level line s
  | .regRd inst reg => Sys2Proof.Machine.execRegRd inst reg s
  | .regWr inst reg imm => Sys2Proof.Machine.execRegWr inst reg imm s
  | .hset inst fld val => Sys2Proof.Machine.execHset inst fld val s

end Sys2Proof.Machine
end

