-- ==== Sys2Proof/Machine/Launch.lean ====
section
/-!
DEFINITION. Which parameters a launch may have (00_scope.md R7, 10_state.md R36, R40, 46_dispatch.md R221).
-/
namespace Sys2Proof.Machine

open Sys2Proof

/-- A callback program without IRQ_DISPATCH (R221, D49). Words that decode to illegal are admitted; executing one is a fault. -/
def callbackLegal (ws : List Word) : Bool :=
  ws.all fun w =>
    match decode w with
    | .ok cmd => !isDispatch cmd
    | .error _ => true

/-- A reset value that sets no unnamed bit (R40), nor an NP bit that does not exist (R36). -/
def resetValueLegal (p : Params) : Bool :=
  Reg.all.all fun r => (p.timerResetValue.get r &&& ~~~(p.writeMask r)) == 0#16

/-- The interrupt lines of the recognised instances are pairwise distinct: P5 is injective (R7). -/
def linesDistinct (p : Params) : Bool := decide (p.insts.map p.lineOf).Nodup

/-- The parameters of a launch the model runs (log entry 5). -/
def paramsLegal (p : Params) : Bool :=
  decide (1 ≤ p.numInstances) && decide (p.numInstances ≤ 8) && p.hasInst p.advancedInst
    && linesDistinct p && decide (3 ≤ p.numBanks) && decide (1 ≤ p.numPrioSlots)
    && (p.ccerClearMask == 0xF#4 || p.ccerClearMask == 0xB#4)
    && resetValueLegal p
    && (p.insts.all fun i => callbackLegal (p.callbackProgram .periodElapsed i)
          && callbackLegal (p.callbackProgram .captureEvent i))
    && decide (p.regAddress.map Prod.fst).Nodup

end Sys2Proof.Machine
end

