-- ==== Sys2Proof/Machine/Agents.lean ====
section
/-!
DEFINITION. The agents of 60_exceptions.md R310 and the steps they take: the current context's next access, its return, the
hardware events, the pending step and interrupt entry; and the turn that says which comes next.
-/
namespace Sys2Proof.Machine

open Sys2Proof

/-! ## Hardware events and the pending step -/

/-- The guard shared by the hardware events: a recognised, clocked instance whose counter runs (R320, R321, R323). -/
def State.counting (s : State) (i : Inst) : Bool :=
  s.cfg.hasInst i && s.clocked i && (s.reg i .cr).getLsbD 0

/-- The update event UPD(i) (R320). -/
def updateEvent (i : Inst) (s : State) : State :=
  if s.counting i then s.setReg i .sr (flagSet (s.reg i .sr) 0) else s

/-- Channel `c` of instance `i` is enabled in capture mode: `SEL(ch) ≠ 0` and `EPR[o(ch)] = 1` (R321). -/
def State.capturing (s : State) (i : Inst) (c : Channel) : Bool :=
  (s.reg i c.modeReg).extractLsb' c.byteShift 2 != 0#2 && (s.reg i .epr).getLsbD c.groupShift

/-- The capture/compare event CC(i, ch) with the free draw `d` (R321). -/
def captureEvent (i : Inst) (c : Channel) (d : Half) (s : State) : State :=
  if s.counting i then
    let s' := s.setReg i .sr (flagSet (s.reg i .sr) c.num)
    if s.capturing i c then s'.setReg i c.ccr d else s'
  else s

/-- The pending step PEND(i) (R312). -/
def pendStep (i : Inst) (s : State) : State :=
  if s.cfg.hasInst i && s.request i then s.setPending (s.cfg.lineOf i) true else s

/-- Interrupt entry of the line R317 selects, if any is eligible (R313, R314). -/
def enterStep (s : State) : State :=
  match s.nextEntry with
  | some i => s.enterInterrupt i
  | none => s

/-! ## The steps of the current context -/

/-- An in-flight command after one more access that read `v`. -/
def InFlight.after (f : InFlight) (a : Access) (v : Word) : InFlight :=
  { f with
    index := f.index + 1
    temps := if a.reads then f.temps ++ [v] else f.temps }

/-- The rest of an in-flight command (R51). -/
def InFlight.rest (f : InFlight) (p : Params) : Prog := (commandProg f.cmd p f.snap).resume f.index f.temps

/-- The last step of the current context's own command, `cpc <- cpc + 1` (R10, R50): its slot empties and the command index
advances. A frame then has nothing left but its return (R315). -/
def State.completeCommand (s : State) : State := (s.setCurrent .idle).advance

/-- The next step of the current context's own command `f`: its next access, or, after its last, its completion, a step of its own
(R10; log entry 30). A callback whose program is not empty starts that program at command index 0 (R221, R51). -/
def commandAccess (f : InFlight) (w : Word) (s : State) : Host.Outcome State Fault Refusal :=
  match f.rest s.cfg with
  | .done => .next s.completeCommand
  | .act a _ =>
    match perform a s with
    | .error c => .next (s.raise c w)
    | .ok (s', v) =>
      match a with
      | .callback kind i =>
        match s.cfg.callbackProgram kind i with
        | [] => .next (s'.setCurrent ⟨some (f.after a v), none⟩)
        | _ :: _ =>
          .next (s'.setCurrent ⟨some (f.after a v), some { kind := kind, inst := i, index := 0, slot := none }⟩)
      | _ => .next (s'.setCurrent ⟨some (f.after a v), none⟩)

/-- A command starts: its checks and snapshot, and in the same step its first access, or its completion if it makes none (R120,
R51; log entry 14). -/
def startCommand (cmd : Instr) (w : Word) (s : State) : Host.Outcome State Fault Refusal :=
  match commandStart cmd s with
  | .error c => .next (s.raise c w)
  | .ok snap => commandAccess { cmd := cmd, snap := snap, index := 0, temps := [] } w s

/-- The word at the command index, if the base level has not ended (R50, R356). -/
def fetch (s : State) : Option Word := s.prog[s.cpc]?

/-- A callback program has run to its end: the dispatcher goes on with its next step (R221; log entry 15). -/
def State.leaveCallback (s : State) : State := s.setCurrent { s.current with callback := none }

/-- The last step of a command of a callback program, `cpc <- cpc + 1` of that program's own command index (R10, R51, R221). -/
def State.callbackCommandDone (s : State) (run : CallbackRun) : State :=
  if run.index + 1 < (s.cfg.callbackProgram run.kind run.inst).length then
    s.setCurrent { s.current with callback := some { run with index := run.index + 1, slot := none } }
  else s.leaveCallback

/-- The next step of the callback command `f`: its next access, or, after its last, its completion. -/
def callbackAccess (run : CallbackRun) (f : InFlight) (w : Word) (s : State) :
    Host.Outcome State Fault Refusal :=
  match f.rest s.cfg with
  | .done => .next (s.callbackCommandDone run)
  | .act a _ =>
    match perform a s with
    | .error c => .next (s.raise c w)
    | .ok (s', v) =>
      .next (s'.setCurrent { s'.current with callback := some { run with slot := some (f.after a v) } })

/-- One step of a callback program: the next access of its command in flight, or the start of its next command (R221). -/
def callbackStep (run : CallbackRun) (s : State) : Host.Outcome State Fault Refusal :=
  match run.slot with
  | some f => callbackAccess run f (encode f.cmd) s
  | none =>
    match (s.cfg.callbackProgram run.kind run.inst)[run.index]? with
    | none => .next s.leaveCallback
    | some w =>
      match decode w with
      | .error _ => .next (s.raise (.illegalCommand w) w)
      | .ok cmd =>
        if isDispatch cmd then .refused .dispatchInCallback
        else
          match commandStart cmd s with
          | .error c => .next (s.raise c w)
          | .ok snap => callbackAccess run { cmd := cmd, snap := snap, index := 0, temps := [] } w s

/-- One command step of the current context (R310): its callback's, its in-flight command's, a frame's return (R315), or the
start of the base level's next command. A base level that has ended takes no step (R356; log entry 12). -/
def contextStep (s : State) : Host.Outcome State Fault Refusal :=
  match s.current.callback with
  | some run => callbackStep run s
  | none =>
    match s.current.slot with
    | some f => commandAccess f (encode f.cmd) s
    | none =>
      match s.active with
      | _ :: _ => .next s.returnFromInterrupt
      | [] =>
        match fetch s with
        | none => .next s
        | some w =>
          match decode w with
          | .error _ => .next (s.raise (.illegalCommand w) w)
          | .ok cmd => startCommand cmd w s

/-- The current context is the base level, between two commands. -/
def State.betweenCommands (s : State) : Bool :=
  s.active.isEmpty && s.base.slot.isNone && s.base.callback.isNone

/-- The current context's turn, a whole command where it stands between two at the base level (log entry 1). -/
def commandTurn (s : State) : Host.Outcome State Fault Refusal :=
  if s.betweenCommands then
    match fetch s with
    | none => .next s
    | some w =>
      match decode w with
      | .error _ => .next (s.raise (.illegalCommand w) w)
      | .ok cmd => exec cmd s
  else contextStep s

/-! ## Turns -/

/-- The step a turn stands for (R310). -/
def takeTurn (t : Turn) (s : State) : Host.Outcome State Fault Refusal :=
  match t with
  | .access => contextStep s
  | .command => commandTurn s
  | .update i => .next (updateEvent i s)
  | .capture i c d => .next (captureEvent i c d s)
  | .pend i => .next (pendStep i s)
  | .enter => .next (enterStep s)

/-- The base level is about to start a command. -/
def State.commandWaits (s : State) : Bool := s.betweenCommands && (fetch s).isSome

/-- The step when the list of turns is empty (log entry 2): an eligible line is entered; else a base-level command about to start
runs; else the environment `env` names its next turns, and the current context goes on. So entry and command steps are weakly
fair, while hardware events and pending steps come when the environment names them, or never (R324). -/
def defaultTurn (env : Environment) (s : State) : Host.Outcome State Fault Refusal :=
  match s.nextEntry with
  | some i => .next (s.enterInterrupt i)
  | none => if s.commandWaits then commandTurn s else contextStep (s.loadTurns env)

/-- One step of the machine in the environment `env`: none once a fault stands (R300), none for a launch with illegal parameters,
else the next turn. -/
def machineStep (env : Environment) (s : State) : Host.Outcome State Fault Refusal :=
  match s.fault with
  | some r => .fault (.stopped r)
  | none =>
    if paramsLegal s.cfg then
      match s.schedule with
      | [] => defaultTurn env s
      | t :: ts => takeTurn t { s with schedule := ts }
    else .refused .illegalParameters

/-- A state about to run the command word `w` as its next step: `w` stands at the command index of the base-level program, and
nothing comes before it (no fault, no frame, no command in flight, no turn, no pending line). -/
def State.aboutToRun (s : State) (w : Word) : State :=
  { s with
    prog := s.prog.take s.cpc ++ List.replicate (s.cpc - s.prog.length) 0 ++ w :: s.prog.drop (s.cpc + 1)
    schedule := []
    pending := List.replicate s.pending.length false
    active := []
    base := .idle
    fault := none }

end Sys2Proof.Machine
end

