-- ==== Sys2Proof/Machine/Step.lean ====
section
/-!
DEFINITION. The step of the machine (60_exceptions.md R310), and the host's way to place one instruction where the next step
runs it. Everything is in Agents.lean.
-/
namespace Sys2Proof.Machine

open Sys2Proof

/-- One step, in the free environment of R324. -/
def step (s : State) : Host.Outcome State Fault Refusal := machineStep Config.environment s

/-- `s` with the instruction whose bits are `w` where the next step fetches it (log entry 13). -/
def State.withFetchWord (s : State) (nbits w : Nat) : State :=
  s.aboutToRun (BitVec.ofNat 32 (w % 2 ^ nbits))

end Sys2Proof.Machine
end

