-- ==== Sys2Proof/Machine/AddressMap.lean ====
section
/-!
DEFINITION. `MemRead` and `MemWrite` over the OPEN address map P16 (20_memory.md R79, R80): the access of the register an
address names, and a refusal for every other address or width. No command of DT-TIM uses an address (R70), and the map is
empty by default (log entry 19).
-/
namespace Sys2Proof.Machine

open Sys2Proof

/-- The width of a register in bytes (R70): 2 for a timer register, 4 for the other two spaces. -/
def RegTarget.bytes : RegTarget → Nat
  | .timer _ _ => 2
  | .clock _ | .iser _ | .icer _ | .ipr _ => 4

/-- The target is a register of R70 under these parameters. -/
def RegTarget.present (p : Params) : RegTarget → Bool
  | .timer i r => p.hasInst i && p.regAt i r.index == some r
  | .clock _ => true
  | .iser b | .icer b => decide (b < p.numBanks)
  | .ipr n => decide (n < p.numPrioSlots)

/-- The register at base address `addr` with access width `n` bytes, if there is one (R79, R80). -/
def Params.target (p : Params) (addr n : Nat) : Option RegTarget :=
  match p.regAddress.find? fun e => e.1 == addr with
  | some (_, t) => if RegTarget.present p t && decide (RegTarget.bytes t = n) then some t else none
  | none => none

/-- A read of the register `t` (R71-R73, R75-R77). An enable or disable word reads as `E[b]` (R76). -/
def State.readTarget (s : State) : RegTarget → Except FaultCause Word
  | .timer i r => match s.rd i r with
    | .ok v => .ok (v.setWidth 32)
    | .error c => .error c
  | .clock b => .ok (s.clk b)
  | .iser b | .icer b => .ok (s.enableWord b)
  | .ipr n => .ok (s.prioWord n)

/-- A write of the register `t` (R71-R73, R75-R77). -/
def State.writeTarget (s : State) (t : RegTarget) (v : Word) : Except FaultCause State :=
  match t with
  | .timer i r => s.wr i r (v.setWidth 16)
  | .clock b => .ok (s.setClk b v)
  | .iser b => .ok (s.wrISER b v)
  | .icer b => .ok (s.wrICER b v)
  | .ipr n => .ok (s.wrIPR n v)

/-- `MemRead(addr, n)` (R80). No command makes this access, so a fault of it is handed back as its cause, no fault state is set, and
a standing fault is not looked at: DESIGN CHOICE, log entry 32. -/
def memRead (addr n : Nat) (s : State) : Except Refusal (Except FaultCause Word) :=
  match Params.target s.cfg addr n with
  | some t => .ok (s.readTarget t)
  | none => .error (.noRegisterAt addr n)

/-- `MemWrite(addr, n, v)` (R80). Its fault is handed back as a cause, as `memRead`'s: DESIGN CHOICE, log entry 32. -/
def memWrite (addr n : Nat) (v : Word) (s : State) : Except Refusal (Except FaultCause State) :=
  match Params.target s.cfg addr n with
  | some t => .ok (s.writeTarget t v)
  | none => .error (.noRegisterAt addr n)

end Sys2Proof.Machine
end

