-- ==== Sys2Proof/Machine/Assembly.lean ====
section
/-!
DEFINITION. The assembler syntax of 30_encoding.md R100 and the pseudo-instructions of R101.
-/
namespace Sys2Proof

/-- The register name of R31. -/
def Reg.name : Reg → String
  | .cr => "CR" | .ier => "IER" | .sr => "SR" | .mra => "MRA" | .mrb => "MRB" | .epr => "EPR"
  | .psc => "PSC" | .arr => "ARR" | .ccr1 => "CCR1" | .ccr2 => "CCR2" | .ccr3 => "CCR3"
  | .ccr4 => "CCR4" | .brk => "BRK"

/-- The handle field name of R45. -/
def handleFieldName (fld : BitVec 4) : Option String :=
  ["prescaler", "period", "direction", "ocMode", "pulse", "ocPolarity", "icPolarity",
   "icSelection", "icPrescaler", "icFilter"][fld.toNat]?

/-- `tN`. -/
def asmInst (i : Inst) : String := "t" ++ toString i.toNat

/-- `chC`. -/
def asmCh (ch : BitVec 3) : String := "ch" ++ toString ch.toNat

/-- `#n`. -/
def asmImm (n : Nat) : String := "#" ++ toString n

/-- A mnemonic and its operands. -/
def asmLine (mnemonic : String) (operands : List String) : String :=
  mnemonic ++ " " ++ String.intercalate ", " operands

/-- The assembly line of a command (R100); none where it names a register or a handle field that has no name. -/
def Instr.assembly : Instr → Option String
  | .clkEn i => some (asmLine "clk.en" [asmInst i])
  | .baseInit i => some (asmLine "base.init" [asmInst i])
  | .baseStart i => some (asmLine "base.start" [asmInst i])
  | .baseStop i => some (asmLine "base.stop" [asmInst i])
  | .baseStartIt i => some (asmLine "base.start_it" [asmInst i])
  | .baseStopIt i => some (asmLine "base.stop_it" [asmInst i])
  | .pwmInit i c => some (asmLine "pwm.init" [asmInst i, asmCh c])
  | .pwmStart i c => some (asmLine "pwm.start" [asmInst i, asmCh c])
  | .pwmStop i c => some (asmLine "pwm.stop" [asmInst i, asmCh c])
  | .pwmSetDuty i c v => some (asmLine "pwm.duty" [asmInst i, asmCh c, asmImm v.toNat])
  | .icInit i c => some (asmLine "ic.init" [asmInst i, asmCh c])
  | .icStartIt i c => some (asmLine "ic.start_it" [asmInst i, asmCh c])
  | .icStopIt i c => some (asmLine "ic.stop_it" [asmInst i, asmCh c])
  | .icRead i c => some (asmLine "ic.read" [asmInst i, asmCh c])
  | .irqDispatch i => some (asmLine "irq.dispatch" [asmInst i])
  | .nvicSetEn en l => some (asmLine "nvic.set_en" [asmImm l.toNat, asmImm en.toNat])
  | .nvicSetPrio lv l => some (asmLine "nvic.set_prio" [asmImm l.toNat, asmImm lv.toNat])
  | .regRd i r => (Reg.ofIndex r).map fun g => asmLine "reg.rd" [asmInst i, g.name]
  | .regWr i r v => (Reg.ofIndex r).map fun g => asmLine "reg.wr" [asmInst i, g.name, asmImm v.toNat]
  | .hset i f v => (handleFieldName f).map fun n => asmLine "hset" [asmInst i, n, asmImm v.toNat]

/-- The pseudo-instructions of R101. -/
inductive Pseudo where
  | nvicEnable (line : BitVec 16)
  | nvicDisable (line : BitVec 16)
  | srClear (inst : Inst) (ch : Channel)
  | srClearUpdate (inst : Inst)
  | hsetBase (inst : Inst) (prescaler period direction : Half)
  | hsetPwm (inst : Inst) (ocMode pulse ocPolarity : Half)
  | hsetIc (inst : Inst) (icPolarity icSelection icPrescaler icFilter : Half)
deriving DecidableEq, Repr

/-- The value `0xFFFF ^ (1 << C)` that clears flag C alone (R101, R238). -/
def srClearValue : Channel → Half
  | .ch1 => 0xFFFF#16 ^^^ (1#16 <<< 1)
  | .ch2 => 0xFFFF#16 ^^^ (1#16 <<< 2)
  | .ch3 => 0xFFFF#16 ^^^ (1#16 <<< 3)
  | .ch4 => 0xFFFF#16 ^^^ (1#16 <<< 4)

/-- The expansion of a pseudo-instruction (R101). -/
def Pseudo.expand : Pseudo → List Instr
  | .nvicEnable l => [.nvicSetEn 1 l]
  | .nvicDisable l => [.nvicSetEn 0 l]
  | .srClear i c => [.regWr i (Reg.index .sr) (srClearValue c)]
  | .srClearUpdate i => [.regWr i (Reg.index .sr) 0xFFFE]
  | .hsetBase i p a d => [.hset i 0 p, .hset i 1 a, .hset i 2 d]
  | .hsetPwm i m v q => [.hset i 3 m, .hset i 4 v, .hset i 5 q]
  | .hsetIc i pol sel psc f => [.hset i 6 pol, .hset i 7 sel, .hset i 8 psc, .hset i 9 f]

end Sys2Proof
end

