-- ==== Sys2Proof/Safety.lean ====
section
/-!
DEFINITION. The terms claims about DT-TIM are stated in: a safe state, the observation point of a run (70_reset_and_hazards.md
R356), the invariants of reachable states, and runs of access steps and of machine steps.
-/
namespace Sys2Proof.Machine

open Sys2Proof

/-- No fault stands (R300, R356). -/
def State.safe (s : State) : Prop := s.fault = none

/-- The base level has ended: `cpc` equals the program's length and its in-flight slot is empty (R50, R356). -/
def State.baseEnded (s : State) : Bool :=
  decide (s.cpc = s.prog.length) && s.base.slot.isNone && s.base.callback.isNone

/-- The observation point of R356. -/
def State.observable (s : State) : Bool := s.baseEnded && s.active.isEmpty && s.fault.isNone

/-- Every unnamed bit of every timer register, and every NP bit that does not exist, is 0 (R40, R36). -/
def State.namedBitsOnly (s : State) : Prop :=
  ∀ i r, s.reg i r &&& ~~~(s.cfg.writeMask r) = 0#16

/-- The low nibble of every priority byte is 0 (R43, R77). -/
def State.lowNibblesZero (s : State) : Prop := ∀ n, s.prioWord n &&& 0x0F0F0F0F#32 = 0#32

/-- The interrupt controller has the sizes its parameters give it (R30, R43, R44). -/
def State.sizesRight (s : State) : Prop :=
  s.enable.length = s.cfg.numBanks ∧ s.prio.length = s.cfg.numPrioSlots
    ∧ s.pending.length = 32 * s.cfg.numBanks

/-- Every frame is the frame of the line of a recognised instance (R314). -/
def State.framesOwnLines (s : State) : Prop :=
  ∀ f ∈ s.active, s.cfg.hasInst f.inst = true ∧ f.line = s.cfg.lineOf f.inst

/-- No more frames are active than R319 admits. -/
def State.depthBounded (s : State) : Prop := s.active.length ≤ maxDepth

/-- What holds of every state a legal launch reaches. -/
def State.Inv (s : State) : Prop :=
  paramsLegal s.cfg = true ∧ s.namedBitsOnly ∧ s.lowNibblesZero ∧ s.sizesRight ∧ s.framesOwnLines ∧ s.depthBounded

/-- A frame runs nothing but the dispatcher of its instance (R314, R333). -/
def State.framesDispatch (s : State) : Prop :=
  ∀ f ∈ s.active, ∀ g, f.ctx.slot = some g → g.cmd = .irqDispatch f.inst

/-- `n` command steps of the current context in a row, accesses and completions (R10), no other agent stepping between them
(R310). -/
def accessSteps : Nat → State → Host.Outcome State Fault Refusal
  | 0, s => .next s
  | n + 1, s =>
    match contextStep s with
    | .next s' => accessSteps n s'
    | .fault r => .fault r
    | .refused r => .refused r

/-- `n` steps of the machine in a row, in the environment `env`. -/
def runSteps (env : Environment) : Nat → State → Host.Outcome State Fault Refusal
  | 0, s => .next s
  | n + 1, s =>
    match machineStep env s with
    | .next s' => runSteps env n s'
    | .fault r => .fault r
    | .refused r => .refused r

/-- A command on instance `i` makes its timer accesses: no fault stands, the instance is recognised and clocked. -/
def State.ready (s : State) (i : Inst) : Prop :=
  s.fault = none ∧ s.cfg.hasInst i = true ∧ s.clocked i = true

/-- An instance index with no instance: `cmd` raises BadInstance and makes no access (R120, R301 code 2). -/
def FaultsOnBadInstance (cmd : Instr) (i : Inst) (s : State) : Prop :=
  s.cfg.hasInst i = false → exec cmd s = .next (s.raise (.badInstance (encode cmd)) (encode cmd))

/-- A recognised but unclocked instance under the fault policy: `cmd` raises UnclockedAccess on register `r`, its first
access (R73, R301 code 8, R302). -/
def FaultsOnUnclocked (cmd : Instr) (i : Inst) (r : Reg) (s : State) : Prop :=
  s.cfg.hasInst i = true → s.clocked i = false → s.cfg.unclockedPolicy = .fault →
    exec cmd s = .next (s.raise (.unclockedAccess i r) (encode cmd))

/-- A recognised but unclocked instance under the ignore policy: reads give 0 and writes have no effect, so `cmd` only
completes (R73). -/
def IdlesOnUnclocked (cmd : Instr) (i : Inst) (s : State) : Prop :=
  s.cfg.hasInst i = true → s.clocked i = false → s.cfg.unclockedPolicy = .ignore →
    exec cmd s = .next s.advance

/-- A channel outside 1..4: `cmd` only completes, or raises BadChannel, by the policy P9 (R140). -/
def BadChannelRule (cmd : Instr) (i : Inst) (ch : BitVec 3) (s : State) : Prop :=
  s.cfg.hasInst i = true → Channel.ofRaw ch = none →
    (s.cfg.badChannelPolicy = .noop → exec cmd s = .next s.advance)
      ∧ (s.cfg.badChannelPolicy = .fault →
          exec cmd s = .next (s.raise (.badChannel (encode cmd)) (encode cmd)))

/-- Everything outside the timer register files, the command index and the fault state is the same. -/
def State.sameOutsideTimers (s t : State) : Prop :=
  t.cfg = s.cfg ∧ t.prog = s.prog ∧ t.schedule = s.schedule ∧ t.handles = s.handles
    ∧ t.clkHS = s.clkHS ∧ t.clkLS = s.clkLS ∧ t.enable = s.enable ∧ t.prio = s.prio
    ∧ t.pending = s.pending ∧ t.active = s.active ∧ t.base = s.base ∧ t.result = s.result
    ∧ t.trace = s.trace ∧ t.draws = s.draws

/-- Every timer register but those in `rs` of instance `i` is the same. -/
def State.sameTimersBut (s t : State) (i : Inst) (rs : List Reg) : Prop :=
  ∀ j r, (j ≠ i ∨ r ∉ rs) → t.reg j r = s.reg j r

/-- Some number of steps of the machine leads from one state to another. -/
inductive Reaches : State → State → Prop where
  | refl (s : State) : Reaches s s
  | tail {s t u : State} : Reaches s t → step t = .next u → Reaches s u

end Sys2Proof.Machine
end

