-- ==== Sys2Proof/Certificates/Slice0/Obligations.lean ====
section
/-!
DEFINITION. What is stated of DT-TIM for the provers: 00_scope.md to 70_reset_and_hazards.md, rule by rule.
A state is any value of `State`, also one no run reaches; where a statement needs an invariant of reachable states
(`namedBitsOnly`, `lowNibblesZero`, `sizesRight`) it is a premise, and `StepKeepsTheInvariant` states it of every step.
-/

open Sys2Proof Sys2Proof.Machine

/-! ## Encoding (30_encoding.md) -/

/-- Every well-formed command is read back from its word: no operand bit is dropped. -/
def Obligations.DecodeReadsBackEveryEncoding : Prop :=
  ∀ i : Instr, i.wellFormed = true → decode (encode i) = .ok i

/-- A word that decodes is the word of the command it decodes to, and that command is well formed. -/
def Obligations.DecodedWordIsTheEncodingOfItsCommand : Prop :=
  ∀ (w : Word) (i : Instr), decode w = .ok i → encode i = w ∧ i.wellFormed = true

/-- R97: a word is illegal exactly when its opcode is reserved, a bit its row fixes to 0 is set, or it is HSET with a
field id of 10 or above. -/
def Obligations.WordIsIllegalExactlyAsTheDecoderRuleSays : Prop :=
  ∀ w : Word, (∃ e, decode w = .error e) ↔
    (opField w = 0x00 ∨ 0x15 ≤ (opField w).toNat)
      ∨ (∃ o, Opcode.ofCode (opField w) = some o ∧ w &&& o.mask ≠ o.pattern)
      ∨ (opField w = 0x14 ∧ 10 ≤ (regField w).toNat)

/-- Words written out from the formats and the opcode map of the spec decode to the commands they stand for. -/
def Obligations.SampleWordsDecodeAsTheMapSays : Prop :=
  decode 0x0A000000 = .ok (.clkEn 2) ∧ decode 0x28000000 = .ok (.baseStartIt 0)
    ∧ decode 0x514001F4 = .ok (.pwmSetDuty 1 2 500) ∧ decode 0x58400000 = .ok (.icInit 0 2)
    ∧ decode 0x84000023 = .ok (.nvicSetEn 1 35) ∧ decode 0x8802000A = .ok (.nvicSetPrio 2 10)
    ∧ decode 0x78000000 = .ok (.irqDispatch 0) ∧ decode 0x9920FFFB = .ok (.regWr 1 2 0xFFFB)
    ∧ decode 0xA1900005 = .ok (.hset 1 9 5) ∧ decode 0x00000000 = .error .reservedOpcode

/-! ## Clock and base timer (40_clock.md, 41_base.md) -/

/-- R110: CLK_EN sets the one clock bit of a recognised instance and completes; for another index it only completes. -/
def Obligations.ClkEnSetsTheInstanceClockBit : Prop :=
  ∀ (i : Inst) (s : State), s.fault = none →
    (s.cfg.hasInst i = true →
      exec (.clkEn i) s
        = .next (s.setClk (s.cfg.busOf i) (s.clk (s.cfg.busOf i) ||| (1#32 <<< s.cfg.bitOf i))).advance)
    ∧ (s.cfg.hasInst i = false → exec (.clkEn i) s = .next s.advance)

/-- R121: BASE_INIT enables the clock, writes prescaler and period verbatim, and replaces DIR alone in CR. -/
def Obligations.BaseInitProgramsClockPrescalerPeriodDirection : Prop :=
  ∀ (i : Inst) (s : State), s.fault = none →
    FaultsOnBadInstance (.baseInit i) i s
    ∧ (s.cfg.hasInst i = true →
        ((s.handle i).prescaler = none →
          exec (.baseInit i) s = .next (s.raise (.unsetHandleField i 0) (encode (.baseInit i))))
        ∧ (∀ p, (s.handle i).prescaler = some p →
            ((s.handle i).period = none →
              exec (.baseInit i) s = .next (s.raise (.unsetHandleField i 1) (encode (.baseInit i))))
            ∧ (∀ a, (s.handle i).period = some a →
                ((s.handle i).direction = none →
                  exec (.baseInit i) s = .next (s.raise (.unsetHandleField i 2) (encode (.baseInit i))))
                ∧ (∀ d, (s.handle i).direction = some d → s.namedBitsOnly →
                    exec (.baseInit i) s
                      = .next (((((s.setClk (s.cfg.busOf i)
                            (s.clk (s.cfg.busOf i) ||| (1#32 <<< s.cfg.bitOf i))).setReg i .psc p).setReg i .arr a).setReg i .cr
                            ((s.reg i .cr &&& ~~~0x0010#16) ||| (if d = .down then 0x0010#16 else 0#16))).advance)))))

/-- R122: BASE_START has its encoding, sets CEN and nothing else, and faults as its rule says. -/
def Obligations.BaseStartSetsCen : Prop :=
  (∀ i : Inst, decode (0x18000000#32 ||| (i.setWidth 32 <<< 24)) = .ok (.baseStart i))
  ∧ ∀ (i : Inst) (s : State), s.fault = none →
    FaultsOnBadInstance (.baseStart i) i s ∧ FaultsOnUnclocked (.baseStart i) i .cr s
    ∧ IdlesOnUnclocked (.baseStart i) i s
    ∧ (s.ready i → s.namedBitsOnly →
        exec (.baseStart i) s = .next (s.setReg i .cr (s.reg i .cr ||| 0x0001#16)).advance)

/-- R123: BASE_STOP has its encoding, clears CEN and nothing else, and faults as its rule says. -/
def Obligations.BaseStopClearsCen : Prop :=
  (∀ i : Inst, decode (0x20000000#32 ||| (i.setWidth 32 <<< 24)) = .ok (.baseStop i))
  ∧ ∀ (i : Inst) (s : State), s.fault = none →
    FaultsOnBadInstance (.baseStop i) i s ∧ FaultsOnUnclocked (.baseStop i) i .cr s
    ∧ IdlesOnUnclocked (.baseStop i) i s
    ∧ (s.ready i → s.namedBitsOnly →
        exec (.baseStop i) s = .next (s.setReg i .cr (s.reg i .cr &&& ~~~0x0001#16)).advance)

/-- R124, R125: BASE_START_IT sets UIE and CEN, BASE_STOP_IT clears them, and nothing else changes. -/
def Obligations.BaseItCommandsSetAndClearUieAndCen : Prop :=
  ∀ (i : Inst) (s : State), s.fault = none →
    (FaultsOnBadInstance (.baseStartIt i) i s ∧ FaultsOnUnclocked (.baseStartIt i) i .ier s
      ∧ IdlesOnUnclocked (.baseStartIt i) i s)
    ∧ (FaultsOnBadInstance (.baseStopIt i) i s ∧ FaultsOnUnclocked (.baseStopIt i) i .cr s
      ∧ IdlesOnUnclocked (.baseStopIt i) i s)
    ∧ (s.ready i → s.namedBitsOnly →
        exec (.baseStartIt i) s
          = .next ((s.setReg i .ier (s.reg i .ier ||| 0x0001#16)).setReg i .cr
              (s.reg i .cr ||| 0x0001#16)).advance
        ∧ exec (.baseStopIt i) s
          = .next ((s.setReg i .cr (s.reg i .cr &&& ~~~0x0001#16)).setReg i .ier
              (s.reg i .ier &&& ~~~0x0001#16)).advance)

/-- R124, R125, R10: the start enables the update interrupt before the counter runs, the stop disables it after: after two of the
four accesses only the first of the two bits has changed; after all four the command is still in flight, and its completion, which
changes nothing else, is a fifth step. -/
def Obligations.UieIsWrittenBeforeCenOnStartAndAfterOnStop : Prop :=
  ∀ (i : Inst) (s : State) (w : Word), s.ready i → s.namedBitsOnly → s.betweenCommands = true →
    fetch s = some w →
    (decode w = .ok (.baseStartIt i) →
      ∃ t u, accessSteps 2 s = .next t ∧ t.reg i .ier = s.reg i .ier ||| 0x0001#16
        ∧ t.reg i .cr = s.reg i .cr ∧ t.cpc = s.cpc
        ∧ accessSteps 4 s = .next u ∧ u.reg i .ier = s.reg i .ier ||| 0x0001#16
        ∧ u.reg i .cr = s.reg i .cr ||| 0x0001#16 ∧ u.cpc = s.cpc ∧ u.base.slot ≠ none
        ∧ accessSteps 5 s = .next { u with base := ⟨none, none⟩, cpc := s.cpc + 1 })
    ∧ (decode w = .ok (.baseStopIt i) →
      ∃ t u, accessSteps 2 s = .next t ∧ t.reg i .cr = s.reg i .cr &&& ~~~0x0001#16
        ∧ t.reg i .ier = s.reg i .ier ∧ t.cpc = s.cpc
        ∧ accessSteps 4 s = .next u ∧ u.reg i .cr = s.reg i .cr &&& ~~~0x0001#16
        ∧ u.reg i .ier = s.reg i .ier &&& ~~~0x0001#16 ∧ u.cpc = s.cpc ∧ u.base.slot ≠ none
        ∧ accessSteps 5 s = .next { u with base := ⟨none, none⟩, cpc := s.cpc + 1 })

/-- The frame of the clock and base-timer commands: the registers each names, CLK for CLK_EN and BASE_INIT, and nothing else. -/
def Obligations.BaseCommandsLeaveEverythingElse : Prop :=
  ∀ (i : Inst) (s t : State),
    (exec (.clkEn i) s = .next t →
      s.sameTimersBut t i [] ∧ (∀ b, b ≠ s.cfg.busOf i → t.clk b = s.clk b)
      ∧ (∀ n, n ≠ s.cfg.bitOf i →
          (t.clk (s.cfg.busOf i)).getLsbD n = (s.clk (s.cfg.busOf i)).getLsbD n)
      ∧ s.sameOutsideTimers { t with clkHS := s.clkHS, clkLS := s.clkLS })
    ∧ (exec (.baseInit i) s = .next t →
      s.sameTimersBut t i [.psc, .arr, .cr] ∧ (∀ b, b ≠ s.cfg.busOf i → t.clk b = s.clk b)
      ∧ (∀ n, n ≠ s.cfg.bitOf i →
          (t.clk (s.cfg.busOf i)).getLsbD n = (s.clk (s.cfg.busOf i)).getLsbD n)
      ∧ s.sameOutsideTimers { t with clkHS := s.clkHS, clkLS := s.clkLS })
    ∧ (exec (.baseStart i) s = .next t → s.sameTimersBut t i [.cr] ∧ s.sameOutsideTimers t)
    ∧ (exec (.baseStop i) s = .next t → s.sameTimersBut t i [.cr] ∧ s.sameOutsideTimers t)
    ∧ (exec (.baseStartIt i) s = .next t → s.sameTimersBut t i [.ier, .cr] ∧ s.sameOutsideTimers t)
    ∧ (exec (.baseStopIt i) s = .next t → s.sameTimersBut t i [.cr, .ier] ∧ s.sameOutsideTimers t)

/-- R112: no command, whole, makes a clocked instance unclocked. Between the accesses of a command another context's write
can (log entry 18), so this is a statement about `exec`. -/
def Obligations.NoWholeCommandClearsAClockBit : Prop :=
  ∀ (cmd : Instr) (j : Inst) (s t : State), exec cmd s = .next t → s.clocked j = true → t.clocked j = true

/-! ## The mapper (42_mapper.md) -/

/-- R141, R142, R143, R144: the mode register, byte shift, group offset and compare/capture register of each channel. -/
def Obligations.MapperTableOfTheFourChannels : Prop :=
  ∀ (ch : BitVec 3),
    ((1 ≤ ch.toNat ∧ ch.toNat ≤ 4) ↔ ∃ c, Channel.ofRaw ch = some c)
    ∧ ∀ c, Channel.ofRaw ch = some c →
      c.num = ch.toNat
      ∧ c.modeReg = (if ch.toNat ≤ 2 then .mra else .mrb)
      ∧ c.byteShift = (if ch.toNat % 2 = 1 then 0 else 8)
      ∧ c.groupShift = 4 * (ch.toNat - 1)
      ∧ Reg.index c.ccr = BitVec.ofNat 4 (7 + ch.toNat)

/-- R145: the PWM update of a mode register, bit by bit. -/
def Obligations.PwmModeUpdateReplacesModeAndSetsPreload : Prop :=
  ∀ (t : Half) (c : Channel) (m : BitVec 4) (n : Nat), n < 16 →
    (pwmMr t c m).getLsbD n
      = if c.byteShift + 4 ≤ n ∧ n < c.byteShift + 8 then m.getLsbD (n - (c.byteShift + 4))
        else if n = c.byteShift + 3 then true else t.getLsbD n

/-- R146: the input-capture update of a mode register, bit by bit. -/
def Obligations.CaptureModeUpdateReplacesSelectionAndFilter : Prop :=
  ∀ (t : Half) (c : Channel) (e : BitVec 2) (f : BitVec 4) (n : Nat), n < 16 →
    (icMr t c e f).getLsbD n
      = if c.byteShift + 4 ≤ n ∧ n < c.byteShift + 8 then f.getLsbD (n - (c.byteShift + 4))
        else if c.byteShift ≤ n ∧ n < c.byteShift + 2 then e.getLsbD (n - c.byteShift)
        else t.getLsbD n

/-- R148: the enable/polarity update, bit by bit for the default mask, and the two masks give the same value whenever bit 2
of the channel's group is 0, as it is in every state with only named bits. -/
def Obligations.EnablePolarityUpdateRewritesOneGroup : Prop :=
  ∀ (t : Half) (c : Channel) (pat : BitVec 4),
    (∀ n, n < 16 →
      (eprSet 0xF t c pat).getLsbD n
        = if c.groupShift ≤ n ∧ n < c.groupShift + 4 then pat.getLsbD (n - c.groupShift)
          else t.getLsbD n)
    ∧ (∀ n, n < 16 →
      (eprSet 0xB t c pat).getLsbD n
        = if c.groupShift ≤ n ∧ n < c.groupShift + 4 then
            pat.getLsbD (n - c.groupShift) || (decide (n = c.groupShift + 2) && t.getLsbD n)
          else t.getLsbD n)
    ∧ (t.getLsbD (c.groupShift + 2) = false → eprSet 0xB t c pat = eprSet 0xF t c pat)

/-- R149, R150: the patterns of a PWM polarity and of a capture polarity. -/
def Obligations.PolarityPatterns : Prop :=
  patPwm .activeHigh = 0x0#4 ∧ patPwm .activeLow = 0x2#4
    ∧ patIc .rising = 0x1#4 ∧ patIc .falling = 0x3#4 ∧ patIc .bothEdges = 0xB#4

/-! ## PWM (43_pwm.md) -/

/-- R160: PWM_INIT programs mode byte, enable/polarity group and compare register, and MOE on the advanced instance alone. -/
def Obligations.PwmInitProgramsTheChannel : Prop :=
  ∀ (i : Inst) (ch : BitVec 3) (s : State), s.fault = none →
    FaultsOnBadInstance (.pwmInit i ch) i s ∧ BadChannelRule (.pwmInit i ch) i ch s
    ∧ (∀ c, Channel.ofRaw ch = some c → s.cfg.hasInst i = true →
        ((s.handle i).ocMode = none →
          exec (.pwmInit i ch) s = .next (s.raise (.unsetHandleField i 3) (encode (.pwmInit i ch))))
        ∧ ∀ m, (s.handle i).ocMode = some m →
          ((s.handle i).pulse = none →
            exec (.pwmInit i ch) s = .next (s.raise (.unsetHandleField i 4) (encode (.pwmInit i ch))))
          ∧ ∀ v, (s.handle i).pulse = some v →
            ((s.handle i).ocPolarity = none →
              exec (.pwmInit i ch) s = .next (s.raise (.unsetHandleField i 5) (encode (.pwmInit i ch))))
            ∧ ∀ q, (s.handle i).ocPolarity = some q →
              FaultsOnUnclocked (.pwmInit i ch) i c.modeReg s
              ∧ IdlesOnUnclocked (.pwmInit i ch) i s
              ∧ (s.clocked i = true → s.namedBitsOnly →
                  exec (.pwmInit i ch) s
                    = .next (if i = s.cfg.advancedInst then
                        ((((s.setReg i c.modeReg (pwmMr (s.reg i c.modeReg) c m)).setReg i .epr
                          (eprSet s.cfg.ccerClearMask (s.reg i .epr) c (patPwm q))).setReg i c.ccr v).setReg i .brk
                          (s.reg i .brk ||| 0x8000#16)).advance
                      else
                        (((s.setReg i c.modeReg (pwmMr (s.reg i c.modeReg) c m)).setReg i .epr
                          (eprSet s.cfg.ccerClearMask (s.reg i .epr) c (patPwm q))).setReg i c.ccr v).advance)))

/-- R161, R162: PWM_START and PWM_STOP have their encodings, set and clear the channel's enable bit alone, and fault as their
rules say. -/
def Obligations.PwmStartAndStopSwitchTheChannelEnable : Prop :=
  (∀ (i : Inst) (ch : BitVec 3),
    decode (0x40000000#32 ||| (i.setWidth 32 <<< 24) ||| (ch.setWidth 32 <<< 21)) = .ok (.pwmStart i ch)
    ∧ decode (0x48000000#32 ||| (i.setWidth 32 <<< 24) ||| (ch.setWidth 32 <<< 21)) = .ok (.pwmStop i ch))
  ∧ ∀ (i : Inst) (ch : BitVec 3) (s : State), s.fault = none →
    (FaultsOnBadInstance (.pwmStart i ch) i s ∧ BadChannelRule (.pwmStart i ch) i ch s)
    ∧ (FaultsOnBadInstance (.pwmStop i ch) i s ∧ BadChannelRule (.pwmStop i ch) i ch s)
    ∧ (∀ c, Channel.ofRaw ch = some c →
        (FaultsOnUnclocked (.pwmStart i ch) i .epr s ∧ IdlesOnUnclocked (.pwmStart i ch) i s)
        ∧ (FaultsOnUnclocked (.pwmStop i ch) i .epr s ∧ IdlesOnUnclocked (.pwmStop i ch) i s)
        ∧ (s.ready i → s.namedBitsOnly →
            exec (.pwmStart i ch) s
              = .next (s.setReg i .epr (s.reg i .epr ||| (1#16 <<< (4 * (ch.toNat - 1))))).advance
            ∧ exec (.pwmStop i ch) s
              = .next (s.setReg i .epr (s.reg i .epr &&& ~~~(1#16 <<< (4 * (ch.toNat - 1))))).advance))

/-- R163: PWM_SET_DUTY writes the pulse of the command word to the channel's compare register. -/
def Obligations.PwmSetDutyWritesTheCompareRegister : Prop :=
  ∀ (i : Inst) (ch : BitVec 3) (v : Half) (s : State), s.fault = none →
    FaultsOnBadInstance (.pwmSetDuty i ch v) i s ∧ BadChannelRule (.pwmSetDuty i ch v) i ch s
    ∧ (∀ c, Channel.ofRaw ch = some c →
        FaultsOnUnclocked (.pwmSetDuty i ch v) i c.ccr s ∧ IdlesOnUnclocked (.pwmSetDuty i ch v) i s
        ∧ (s.ready i → exec (.pwmSetDuty i ch v) s = .next (s.setReg i c.ccr v).advance))

/-- R164: the duty just set is what IC_READ of the same channel returns when nothing comes between the two commands. -/
def Obligations.DutyIsReadBackByIcRead : Prop :=
  ∀ (i : Inst) (ch : BitVec 3) (v : Half) (s : State), s.ready i → (∃ c, Channel.ofRaw ch = some c) →
    ∃ t u, exec (.pwmSetDuty i ch v) s = .next t ∧ exec (.icRead i ch) t = .next u
      ∧ u.result = v.setWidth 32

/-- The frame of the PWM commands. -/
def Obligations.PwmCommandsLeaveEverythingElse : Prop :=
  ∀ (i : Inst) (ch : BitVec 3) (v : Half) (s t : State) (c : Channel), Channel.ofRaw ch = some c →
    (exec (.pwmInit i ch) s = .next t →
      s.sameTimersBut t i [c.modeReg, .epr, c.ccr, .brk] ∧ s.sameOutsideTimers t
      ∧ (i ≠ s.cfg.advancedInst → t.reg i .brk = s.reg i .brk))
    ∧ (exec (.pwmStart i ch) s = .next t → s.sameTimersBut t i [.epr] ∧ s.sameOutsideTimers t)
    ∧ (exec (.pwmStop i ch) s = .next t → s.sameTimersBut t i [.epr] ∧ s.sameOutsideTimers t)
    ∧ (exec (.pwmSetDuty i ch v) s = .next t → s.sameTimersBut t i [c.ccr] ∧ s.sameOutsideTimers t)

/-! ## Input capture (44_ic.md) -/

/-- R180: IC_INIT programs selection, filter, polarity and enable of the channel; an NP bit that does not exist is dropped. -/
def Obligations.IcInitProgramsTheChannel : Prop :=
  ∀ (i : Inst) (ch : BitVec 3) (s : State), s.fault = none →
    FaultsOnBadInstance (.icInit i ch) i s ∧ BadChannelRule (.icInit i ch) i ch s
    ∧ (∀ c, Channel.ofRaw ch = some c → s.cfg.hasInst i = true →
        ((s.handle i).icPolarity = none →
          exec (.icInit i ch) s = .next (s.raise (.unsetHandleField i 6) (encode (.icInit i ch))))
        ∧ ∀ p, (s.handle i).icPolarity = some p →
          ((s.handle i).icSelection = none →
            exec (.icInit i ch) s = .next (s.raise (.unsetHandleField i 7) (encode (.icInit i ch))))
          ∧ ∀ e, (s.handle i).icSelection = some e →
            ((s.handle i).icFilter = none →
              exec (.icInit i ch) s = .next (s.raise (.unsetHandleField i 9) (encode (.icInit i ch))))
            ∧ ∀ f, (s.handle i).icFilter = some f →
              FaultsOnUnclocked (.icInit i ch) i c.modeReg s
              ∧ IdlesOnUnclocked (.icInit i ch) i s
              ∧ (s.clocked i = true → s.namedBitsOnly →
                  exec (.icInit i ch) s
                    = .next ((s.setReg i c.modeReg
                        (icMr (s.reg i c.modeReg) c (icSelCode s.cfg e) f)).setReg i .epr
                        (eprSet s.cfg.ccerClearMask (s.reg i .epr) c (patIc p) &&& s.cfg.eprMask)).advance))

/-- R181, R182: IC_START_IT sets the channel's interrupt enable and CEN; IC_STOP_IT clears the enable and leaves the counter. -/
def Obligations.IcItCommandsSwitchTheChannelInterrupt : Prop :=
  ∀ (i : Inst) (ch : BitVec 3) (s : State), s.fault = none →
    (FaultsOnBadInstance (.icStartIt i ch) i s ∧ BadChannelRule (.icStartIt i ch) i ch s)
    ∧ (FaultsOnBadInstance (.icStopIt i ch) i s ∧ BadChannelRule (.icStopIt i ch) i ch s)
    ∧ (∀ c, Channel.ofRaw ch = some c →
        (FaultsOnUnclocked (.icStartIt i ch) i .ier s ∧ IdlesOnUnclocked (.icStartIt i ch) i s)
        ∧ (FaultsOnUnclocked (.icStopIt i ch) i .ier s ∧ IdlesOnUnclocked (.icStopIt i ch) i s)
        ∧ (s.ready i → s.namedBitsOnly →
            exec (.icStartIt i ch) s
              = .next ((s.setReg i .ier (s.reg i .ier ||| (1#16 <<< ch.toNat))).setReg i .cr
                  (s.reg i .cr ||| 0x0001#16)).advance
            ∧ exec (.icStopIt i ch) s
              = .next (s.setReg i .ier (s.reg i .ier &&& ~~~(1#16 <<< ch.toNat))).advance))

/-- R183: IC_READ has its encoding and puts the channel's compare/capture register, zero-extended, in `result`. -/
def Obligations.IcReadReturnsTheCaptureRegister : Prop :=
  (∀ (i : Inst) (ch : BitVec 3),
    decode (0x70000000#32 ||| (i.setWidth 32 <<< 24) ||| (ch.setWidth 32 <<< 21)) = .ok (.icRead i ch))
  ∧ ∀ (i : Inst) (ch : BitVec 3) (s : State), s.fault = none →
    FaultsOnBadInstance (.icRead i ch) i s ∧ BadChannelRule (.icRead i ch) i ch s
    ∧ (∀ c, Channel.ofRaw ch = some c →
        FaultsOnUnclocked (.icRead i ch) i c.ccr s
        ∧ (s.cfg.hasInst i = true → s.clocked i = false → s.cfg.unclockedPolicy = .ignore →
            exec (.icRead i ch) s = .next ({ s with result := 0 } : State).advance)
        ∧ (s.ready i →
            exec (.icRead i ch) s
              = .next ({ s with result := (s.reg i c.ccr).setWidth 32 } : State).advance))

/-- The frame of the input-capture commands. -/
def Obligations.CaptureCommandsLeaveEverythingElse : Prop :=
  ∀ (i : Inst) (ch : BitVec 3) (s t : State) (c : Channel), Channel.ofRaw ch = some c →
    (exec (.icInit i ch) s = .next t → s.sameTimersBut t i [c.modeReg, .epr] ∧ s.sameOutsideTimers t)
    ∧ (exec (.icStartIt i ch) s = .next t → s.sameTimersBut t i [.ier, .cr] ∧ s.sameOutsideTimers t)
    ∧ (exec (.icStopIt i ch) s = .next t → s.sameTimersBut t i [.ier] ∧ s.sameOutsideTimers t)
    ∧ (exec (.icRead i ch) s = .next t →
        s.sameTimersBut t i [] ∧ s.sameOutsideTimers { t with result := s.result })

/-! ## Interrupt controller (45_nvic.md) -/

/-- R202, R203: NVIC_SET_EN sets or clears the line's bit in its bank and no other; a line above bank 2 is ignored; enabling
twice leaves the enable words as enabling once. -/
def Obligations.NvicSetEnSwitchesOneEnableBit : Prop :=
  ∀ (line : BitVec 16) (s : State), s.fault = none →
    (line.toNat / 32 ≤ 2 →
      exec (.nvicSetEn 1 line) s
        = .next (State.advance { s with
            enable := s.enable.set (line.toNat / 32)
              (s.enableWord (line.toNat / 32) ||| (1#32 <<< (line.toNat % 32))) })
      ∧ exec (.nvicSetEn 0 line) s
        = .next (State.advance { s with
            enable := s.enable.set (line.toNat / 32)
              (s.enableWord (line.toNat / 32) &&& ~~~(1#32 <<< (line.toNat % 32))) }))
    ∧ (2 < line.toNat / 32 → ∀ en, exec (.nvicSetEn en line) s = .next s.advance)
    ∧ (∀ t u, exec (.nvicSetEn 1 line) s = .next t → exec (.nvicSetEn 1 line) t = .next u →
        u.enable = t.enable)

/-- R204, R205: NVIC_SET_PRIO ORs the shifted level into the line's word, without the low nibbles; outside the table it
raises PriorityOutOfRange and makes no access. -/
def Obligations.NvicSetPrioOrsTheLevelIn : Prop :=
  ∀ (level : BitVec 8) (line : BitVec 16) (s : State), s.fault = none →
    (line.toNat / 4 < s.cfg.numPrioSlots →
      exec (.nvicSetPrio level line) s
        = .next (State.advance { s with
            prio := s.prio.set (line.toNat / 4)
              ((s.prioWord (line.toNat / 4) ||| (level.setWidth 32 <<< (8 * (line.toNat % 4) + 4)))
                &&& 0xF0F0F0F0#32) }))
    ∧ (s.cfg.numPrioSlots ≤ line.toNat / 4 →
      exec (.nvicSetPrio level line) s
        = .next (s.raise (.priorityOutOfRange line) (encode (.nvicSetPrio level line))))

/-- R206, R207: after NVIC_SET_PRIO the line's priority is the old one OR'd with the level's low four bits, whatever the
level, and no other line of the table has changed its priority. A line outside the table has a free value for its priority, and that
a command leaves it is the model's choice (log entry 8). -/
def Obligations.PriorityWritesAreAdditiveAndReachOneLine : Prop :=
  ∀ (level : BitVec 8) (line : BitVec 16) (s t : State), s.sizesRight →
    line.toNat / 4 < s.cfg.numPrioSlots → s.fault = none → exec (.nvicSetPrio level line) s = .next t →
    t.linePriority line.toNat = s.linePriority line.toNat ||| level.setWidth 4
    ∧ (∀ l, l ≠ line.toNat → l / 4 < s.cfg.numPrioSlots → t.linePriority l = s.linePriority l)
    ∧ (∀ l, s.cfg.numPrioSlots ≤ l / 4 → t.linePriority l = s.linePriority l)

/-- The frame of the interrupt-controller commands: pending latches, timers and everything else stay. -/
def Obligations.NvicCommandsLeaveEverythingElse : Prop :=
  ∀ (en : BitVec 1) (level : BitVec 8) (line : BitVec 16) (s t : State),
    (exec (.nvicSetEn en line) s = .next t →
      t.timers = s.timers ∧ s.sameOutsideTimers { t with enable := s.enable }
      ∧ ∀ b, b ≠ line.toNat / 32 → t.enableWord b = s.enableWord b)
    ∧ (exec (.nvicSetPrio level line) s = .next t →
      t.timers = s.timers ∧ s.sameOutsideTimers { t with prio := s.prio }
      ∧ ∀ n, n ≠ line.toNat / 4 → t.prioWord n = s.prioWord n)

/-! ## Dispatcher (46_dispatch.md) -/

/-- R220, R222, R223 with empty callback programs: UIF, and nothing else, is cleared when it was seen; each callback is
recorded once when its flags were seen, the update first; IER is not looked at. -/
def Obligations.IrqDispatchClearsUifAndRecordsEachCallbackOnce : Prop :=
  ∀ (i : Inst) (s : State), s.fault = none →
    FaultsOnBadInstance (.irqDispatch i) i s ∧ FaultsOnUnclocked (.irqDispatch i) i .sr s
    ∧ IdlesOnUnclocked (.irqDispatch i) i s
    ∧ (s.ready i → s.namedBitsOnly → (∀ kind, s.cfg.callbackProgram kind i = []) →
        exec (.irqDispatch i) s
          = .next ({ s.setReg i .sr
                (if (s.reg i .sr).getLsbD 0 then s.reg i .sr &&& 0xFFFE#16 else s.reg i .sr) with
              trace := s.trace
                ++ (if (s.reg i .sr).getLsbD 0 then [TraceRecord.callback .periodElapsed i] else [])
                ++ (if (s.reg i .sr).extractLsb' 1 4 ≠ 0#4 then [TraceRecord.callback .captureEvent i] else []) }
              : State).advance)

/-- R221: a callback runs its program to completion after its record, the update callback's before the capture
callback's, and the flags tested for the second are those read at step 1; a fault in a callback program stops there, with the
state its accesses left. `runWords` is the run of a callback program: each word by the meaning of its own command, less the command
index, which a callback's command does not move. That the record of such a fault holds the callback command's word is the
model's choice (log entry 11). -/
def Obligations.IrqDispatchRunsItsCallbackProgramsInOrder : Prop :=
  (∀ (i : Inst) (s : State), s.ready i → s.namedBitsOnly →
    ((s.reg i .sr).getLsbD 0 = true → ∀ c w u,
      runWords (s.cfg.callbackProgram .periodElapsed i)
        { s.setReg i .sr (s.reg i .sr &&& 0xFFFE#16) with
          trace := s.trace ++ [.callback .periodElapsed i] } = .fault c w u →
      exec (.irqDispatch i) s = .next (u.raise c w))
    ∧ ∀ s₁,
      (if (s.reg i .sr).getLsbD 0 = true then
        runWords (s.cfg.callbackProgram .periodElapsed i)
          { s.setReg i .sr (s.reg i .sr &&& 0xFFFE#16) with
            trace := s.trace ++ [.callback .periodElapsed i] } = .ok s₁
      else s₁ = s) →
      ((s.reg i .sr).extractLsb' 1 4 ≠ 0#4 → ∀ c w u,
        runWords (s.cfg.callbackProgram .captureEvent i)
          { s₁ with trace := s₁.trace ++ [.callback .captureEvent i] } = .fault c w u →
        exec (.irqDispatch i) s = .next (u.raise c w))
      ∧ ∀ s₂,
        (if (s.reg i .sr).extractLsb' 1 4 ≠ 0#4 then
          runWords (s.cfg.callbackProgram .captureEvent i)
            { s₁ with trace := s₁.trace ++ [.callback .captureEvent i] } = .ok s₂
        else s₂ = s₁) →
        exec (.irqDispatch i) s = .next s₂.advance)
  ∧ (∀ s : State, runWords [] s = .ok s)
  ∧ (∀ (w : Word) (ws : List Word) (e : DecodeError) (s : State), decode w = .error e →
      runWords (w :: ws) s = .fault (.illegalCommand w) w s)
  ∧ (∀ (w : Word) (cmd : Instr) (s : State), s.fault = none → decode w = .ok cmd → isDispatch cmd = false →
      ∃ t, exec cmd s = .next t
        ∧ (t.fault = none → ∃ u, t = u.advance ∧ ∀ ws, runWords (w :: ws) s = runWords ws u)
        ∧ (t.fault ≠ none → ∃ c u, t = u.raise c w ∧ ∀ ws, runWords (w :: ws) s = .fault c w u))

/-! ## Handle and raw access (47_host.md) -/

/-- R230, R231: HSET writes each field with each legal value, and raises BadHandleValue on every other value. -/
def Obligations.HsetWritesLegalValuesAndFaultsOnOthers : Prop :=
  ∀ (i : Inst) (v : Half) (s : State), s.fault = none →
    (∀ fld : BitVec 4, fld.toNat < 10 → FaultsOnBadInstance (.hset i fld v) i s)
    ∧ (s.cfg.hasInst i = true →
        exec (.hset i 0 v) s = .next (s.setHandle i { s.handle i with prescaler := some v }).advance
        ∧ exec (.hset i 1 v) s = .next (s.setHandle i { s.handle i with period := some v }).advance
        ∧ exec (.hset i 2 v) s
            = .next (if v = 0 then (s.setHandle i { s.handle i with direction := some .up }).advance
                else if v = 1 then (s.setHandle i { s.handle i with direction := some .down }).advance
                else s.raise (.badHandleValue i 2 v) (encode (.hset i 2 v)))
        ∧ exec (.hset i 3 v) s
            = .next (if v.toNat ≤ 15 ∧ v.setWidth 4 ∈ s.cfg.legalOcModes then
                  (s.setHandle i { s.handle i with ocMode := some (v.setWidth 4) }).advance
                else s.raise (.badHandleValue i 3 v) (encode (.hset i 3 v)))
        ∧ exec (.hset i 4 v) s = .next (s.setHandle i { s.handle i with pulse := some v }).advance
        ∧ exec (.hset i 5 v) s
            = .next (if v = 0 then (s.setHandle i { s.handle i with ocPolarity := some .activeHigh }).advance
                else if v = 1 then (s.setHandle i { s.handle i with ocPolarity := some .activeLow }).advance
                else s.raise (.badHandleValue i 5 v) (encode (.hset i 5 v)))
        ∧ exec (.hset i 6 v) s
            = .next (if v = 0 then (s.setHandle i { s.handle i with icPolarity := some .rising }).advance
                else if v = 1 then (s.setHandle i { s.handle i with icPolarity := some .falling }).advance
                else if v = 2 then (s.setHandle i { s.handle i with icPolarity := some .bothEdges }).advance
                else s.raise (.badHandleValue i 6 v) (encode (.hset i 6 v)))
        ∧ exec (.hset i 7 v) s
            = .next (if v = 0 then (s.setHandle i { s.handle i with icSelection := some .direct }).advance
                else if v = 1 then (s.setHandle i { s.handle i with icSelection := some .indirect }).advance
                else if v = 2 then (s.setHandle i { s.handle i with icSelection := some .internalTrigger }).advance
                else s.raise (.badHandleValue i 7 v) (encode (.hset i 7 v)))
        ∧ exec (.hset i 8 v) s
            = .next (if v.toNat ≤ 3 then
                  (s.setHandle i { s.handle i with icPrescaler := some (v.setWidth 2) }).advance
                else s.raise (.badHandleValue i 8 v) (encode (.hset i 8 v)))
        ∧ exec (.hset i 9 v) s
            = .next (if v.toNat ≤ 15 then
                  (s.setHandle i { s.handle i with icFilter := some (v.setWidth 4) }).advance
                else s.raise (.badHandleValue i 9 v) (encode (.hset i 9 v))))

/-- R31, R239: indices 0 to 11 name a register on every instance, 12 on the advanced one alone, 13 to 15 none. -/
def Obligations.RegisterIndicesThatExist : Prop :=
  ∀ (p : Params) (i : Inst) (idx : BitVec 4),
    ((p.regAt i idx).isSome = true ↔ idx.toNat ≤ 11 ∨ (idx.toNat = 12 ∧ i = p.advancedInst))
    ∧ ∀ r, p.regAt i idx = some r → r.index = idx

/-- R235: REG_RD puts the register, zero-extended, in `result`; an index without a register is NoSuchRegister. -/
def Obligations.RegRdReadsTheNamedRegister : Prop :=
  ∀ (i : Inst) (idx : BitVec 4) (s : State), s.fault = none →
    FaultsOnBadInstance (.regRd i idx) i s
    ∧ (s.cfg.hasInst i = true → s.cfg.regAt i idx = none →
        exec (.regRd i idx) s = .next (s.raise (.noSuchRegister i idx) (encode (.regRd i idx))))
    ∧ (∀ r, s.cfg.regAt i idx = some r →
        FaultsOnUnclocked (.regRd i idx) i r s
        ∧ (s.cfg.hasInst i = true → s.clocked i = false → s.cfg.unclockedPolicy = .ignore →
            exec (.regRd i idx) s = .next ({ s with result := 0 } : State).advance)
        ∧ (s.ready i →
            exec (.regRd i idx) s = .next ({ s with result := (s.reg i r).setWidth 32 } : State).advance))

/-- R236, R237, R72: REG_WR of SR clears the flags whose bit is 0 and sets none; of another register it stores the value,
or raises ReservedBitWrite when it would set an unnamed bit. -/
def Obligations.RegWrWritesTheNamedRegister : Prop :=
  ∀ (i : Inst) (idx : BitVec 4) (v : Half) (s : State), s.fault = none →
    FaultsOnBadInstance (.regWr i idx v) i s
    ∧ (s.cfg.hasInst i = true → s.cfg.regAt i idx = none →
        exec (.regWr i idx v) s = .next (s.raise (.noSuchRegister i idx) (encode (.regWr i idx v))))
    ∧ (∀ r, s.cfg.regAt i idx = some r →
        (r ≠ .sr → v &&& ~~~(Reg.namedMask r) ≠ 0#16 → s.cfg.hasInst i = true →
          exec (.regWr i idx v) s = .next (s.raise (.reservedBitWrite i idx v) (encode (.regWr i idx v))))
        ∧ (r = .sr ∨ v &&& ~~~(Reg.namedMask r) = 0#16 →
            FaultsOnUnclocked (.regWr i idx v) i r s ∧ IdlesOnUnclocked (.regWr i idx v) i s)
        ∧ (r = .sr → s.ready i → s.namedBitsOnly →
            exec (.regWr i idx v) s = .next (s.setReg i .sr (s.reg i .sr &&& v)).advance)
        ∧ (r ≠ .sr → v &&& ~~~(Reg.namedMask r) = 0#16 → s.ready i →
            exec (.regWr i idx v) s = .next (s.setReg i r (v &&& s.cfg.writeMask r)).advance))

/-- The frame of HSET, REG_RD and REG_WR. -/
def Obligations.RawCommandsLeaveEverythingElse : Prop :=
  ∀ (i : Inst) (idx fld : BitVec 4) (v : Half) (s t : State),
    (exec (.regRd i idx) s = .next t →
      t.timers = s.timers ∧ s.sameOutsideTimers { t with result := s.result })
    ∧ (exec (.regWr i idx v) s = .next t →
      s.sameOutsideTimers t
      ∧ ∀ r, s.cfg.regAt i idx = some r → s.sameTimersBut t i [r])
    ∧ (exec (.hset i fld v) s = .next t →
      t.timers = s.timers ∧ s.sameOutsideTimers { t with handles := s.handles }
      ∧ ∀ j, j ≠ i → t.handle j = s.handle j)

/-- R52: only IC_READ and REG_RD write `result`. IRQ_DISPATCH stands out because its callback programs may hold them. -/
def Obligations.OnlyReadsWriteTheResult : Prop :=
  ∀ (cmd : Instr) (s t : State), isDispatch cmd = false → (∀ i ch, cmd ≠ .icRead i ch) →
    (∀ i idx, cmd ≠ .regRd i idx) → exec cmd s = .next t → t.result = s.result

/-! ## The step (60_exceptions.md) -/

/-- The next step runs the decoded command: at the base level between two commands, with no turn named and no line eligible
(or with the turn `command`), the step is the command's meaning. -/
def Obligations.StepRunsTheDecodedCommand : Prop :=
  ∀ (s : State) (w : Word) (i : Instr), s.fault = none → paramsLegal s.cfg = true →
    s.betweenCommands = true → fetch s = some w → decode w = .ok i →
    (s.schedule = [] → s.nextEntry = none → step s = exec i s)
    ∧ (∀ ts, s.schedule = .command :: ts → step s = exec i { s with schedule := ts })

/-- A word placed with `withFetchWord` is the next command of every legal launch. -/
def Obligations.PlacedWordIsRunByTheNextStep : Prop :=
  ∀ (s : State) (w : Word) (i : Instr), paramsLegal s.cfg = true → decode w = .ok i →
    step (s.withFetchWord 32 w.toNat) = exec i (s.withFetchWord 32 w.toNat)

/-- R97, R301: an illegal word at the command index faults with IllegalCommand, by either kind of command turn, and the
command index stays. -/
def Obligations.IllegalWordFaultsWhenExecuted : Prop :=
  ∀ (s : State) (w : Word) (e : DecodeError) (ts : List Turn), s.fault = none → paramsLegal s.cfg = true →
    s.betweenCommands = true → fetch s = some w → decode w = .error e →
    (s.schedule = .command :: ts ∨ s.schedule = .access :: ts) →
    step s = .next (({ s with schedule := ts } : State).raise (.illegalCommand w) w)

/-- R300, R53: once a fault stands no agent takes a step, and no meaning runs. -/
def Obligations.FaultStopsEveryAgent : Prop :=
  ∀ (s : State) (r : FaultRecord), s.fault = some r →
    step s = .fault (.stopped r) ∧ ∀ i, exec i s = .fault (.stopped r)

/-- R302, R53: a command other than IRQ_DISPATCH that faults has made none of its accesses: the state after it differs
in the fault state alone, which holds its own word and the current context. -/
def Obligations.FaultingCommandHasMadeNoAccess : Prop :=
  ∀ (i : Instr) (s t : State) (r : FaultRecord), isDispatch i = false → exec i s = .next t →
    t.fault = some r →
    r.word = encode i ∧ r.context = s.faultContext ∧ t = { s with fault := some r }

/-- R84, R310, R220, R314, R315: a command run whole is its accesses and its completion taken one at a time, no other agent between them; and a
frame that interrupt entry has pushed makes, step by step, what the dispatcher's meaning makes whole, its callbacks
included, and is then idle, ready to return. -/
def Obligations.WholeCommandIsItsAccessesInOrder : Prop :=
  (∀ (s t : State) (w : Word) (i : Instr), s.betweenCommands = true → fetch s = some w →
    decode w = .ok i → exec i s = .next t → t.fault = none → ∃ n, accessSteps n s = .next t)
  ∧ ∀ (s t : State) (f : Frame) (fs : List Frame) (i : Inst), s.active = f :: fs →
    f.ctx = dispatchContext i → exec (.irqDispatch i) s = .next t → t.fault = none →
    ∃ n, accessSteps n s = .next { t with active := ⟨f.line, f.inst, ⟨none, none⟩⟩ :: fs }

/-- R84, R360, R51: a command in flight writes back what its own earlier read gave, whatever the register holds by then:
IC_START_IT's IER, NVIC_SET_PRIO's priority word, CLK_EN's clock word; and it writes the handle fields it read when it started,
whatever the handle holds by then: no step of a command in flight but HSET's looks at the handles. -/
def Obligations.ReadModifyWriteLosesAWriteBetween : Prop :=
  (∀ (i : Inst) (ch : BitVec 3) (c : Channel) (old : Half) (snap : Snapshot) (s : State),
    Channel.ofRaw ch = some c → s.clocked i = true →
    s.current = ⟨some ⟨.icStartIt i ch, snap, 1, [old.setWidth 32]⟩, none⟩ →
    ∃ t, contextStep s = .next t
      ∧ t.reg i .ier = (old ||| (1#16 <<< ch.toNat)) &&& 0x001F#16
      ∧ ∀ j r, (j ≠ i ∨ r ≠ .ier) → t.reg j r = s.reg j r)
  ∧ (∀ (level : BitVec 8) (line : BitVec 16) (old : Word) (snap : Snapshot) (s : State),
    line.toNat / 4 < s.prio.length →
    s.current = ⟨some ⟨.nvicSetPrio level line, snap, 1, [old]⟩, none⟩ →
    ∃ t, contextStep s = .next t
      ∧ t.prioWord (line.toNat / 4)
        = (old ||| (level.setWidth 32 <<< (8 * (line.toNat % 4) + 4))) &&& 0xF0F0F0F0#32
      ∧ ∀ n, n ≠ line.toNat / 4 → t.prioWord n = s.prioWord n)
  ∧ (∀ (i : Inst) (old : Word) (snap : Snapshot) (s : State), s.cfg.hasInst i = true →
    s.current = ⟨some ⟨.clkEn i, snap, 1, [old]⟩, none⟩ →
    ∃ t, contextStep s = .next t
      ∧ t.clk (s.cfg.busOf i) = old ||| (1#32 <<< s.cfg.bitOf i)
      ∧ ∀ b, b ≠ s.cfg.busOf i → t.clk b = s.clk b)
  ∧ (∀ (i : Inst) (p a : Half) (d : Direction) (w : Word) (s : State), s.fault = none →
    s.betweenCommands = true → fetch s = some w → decode w = .ok (.baseInit i) → s.cfg.hasInst i = true →
    (s.handle i).prescaler = some p → (s.handle i).period = some a → (s.handle i).direction = some d →
    contextStep s
      = .next { s with base := ⟨some ⟨.baseInit i, { prescaler := p, period := a, direction := d }, 1,
          [s.clk (s.cfg.busOf i)]⟩, none⟩ })
  ∧ (∀ (i : Inst) (c : Word) (snap : Snapshot) (s : State), s.clocked i = true →
    s.current = ⟨some ⟨.baseInit i, snap, 2, [c]⟩, none⟩ →
    ∃ t, contextStep s = .next t ∧ t.reg i .psc = snap.prescaler)
  ∧ ∀ (f : InFlight) (hs : Vector Handle 8) (s t : State), s.current = ⟨some f, none⟩ →
    (∀ i fld v, f.cmd ≠ .hset i fld v) → contextStep s = .next t →
    contextStep { s with handles := hs } = .next { t with handles := hs }

/-- R320, R323: the update event sets UIF of a clocked, counting instance and does nothing else; otherwise it does nothing. -/
def Obligations.UpdateEventSetsUifOnlyWhileCounting : Prop :=
  ∀ (i : Inst) (s : State) (ts : List Turn), s.fault = none → paramsLegal s.cfg = true →
    s.schedule = .update i :: ts →
    (s.cfg.hasInst i = true ∧ s.clocked i = true ∧ (s.reg i .cr).getLsbD 0 = true →
      step s = .next (({ s with schedule := ts } : State).setReg i .sr (s.reg i .sr ||| 0x0001#16)))
    ∧ (s.cfg.hasInst i = false ∨ s.clocked i = false ∨ (s.reg i .cr).getLsbD 0 = false →
      step s = .next { s with schedule := ts })

/-- R321, R323: the capture/compare event sets the channel's flag, and latches the draw exactly when the channel is enabled
in capture mode; with the counter stopped or the clock off it does nothing. -/
def Obligations.CaptureEventSetsTheFlagAndLatchesInCaptureMode : Prop :=
  ∀ (i : Inst) (c : Channel) (d : Half) (s : State) (ts : List Turn), s.fault = none →
    paramsLegal s.cfg = true → s.schedule = .capture i c d :: ts →
    (s.cfg.hasInst i = true ∧ s.clocked i = true ∧ (s.reg i .cr).getLsbD 0 = true →
      (((s.reg i c.modeReg).getLsbD c.byteShift = true ∨ (s.reg i c.modeReg).getLsbD (c.byteShift + 1) = true)
          ∧ (s.reg i .epr).getLsbD c.groupShift = true →
        step s = .next ((({ s with schedule := ts } : State).setReg i .sr
          (s.reg i .sr ||| (1#16 <<< c.num))).setReg i c.ccr d))
      ∧ (((s.reg i c.modeReg).getLsbD c.byteShift = false
            ∧ (s.reg i c.modeReg).getLsbD (c.byteShift + 1) = false)
          ∨ (s.reg i .epr).getLsbD c.groupShift = false →
        step s = .next (({ s with schedule := ts } : State).setReg i .sr
          (s.reg i .sr ||| (1#16 <<< c.num)))))
    ∧ (s.cfg.hasInst i = false ∨ s.clocked i = false ∨ (s.reg i .cr).getLsbD 0 = false →
      step s = .next { s with schedule := ts })

/-- R311, R312: the pending step sets the latch of the instance's line exactly while the request stands, and no other latch. A
line at or above 32*numBanks has no latch, and its pending step changes nothing: the model's choice (log entry 9). -/
def Obligations.PendingStepLatchesARequest : Prop :=
  ∀ (i : Inst) (s : State) (ts : List Turn), s.fault = none → paramsLegal s.cfg = true → s.sizesRight →
    s.schedule = .pend i :: ts →
    (s.cfg.hasInst i = true ∧ s.clocked i = true ∧ (∃ n, n < 5 ∧ (s.reg i .sr).getLsbD n = true
        ∧ (s.reg i .ier).getLsbD n = true) →
      (s.cfg.lineOf i < 32 * s.cfg.numBanks →
        ∃ t, step s = .next t ∧ t = { s with schedule := ts, pending := s.pending.set (s.cfg.lineOf i) true }
          ∧ t.isPending (s.cfg.lineOf i) = true
          ∧ ∀ l, l ≠ s.cfg.lineOf i → t.isPending l = s.isPending l)
      ∧ (32 * s.cfg.numBanks ≤ s.cfg.lineOf i → step s = .next { s with schedule := ts }))
    ∧ (s.cfg.hasInst i = false ∨ s.clocked i = false ∨ (∀ n, n < 5 →
        (s.reg i .sr).getLsbD n = false ∨ (s.reg i .ier).getLsbD n = false) →
      step s = .next { s with schedule := ts })

/-- R314: interrupt entry clears the latch, pushes the frame with IRQ_DISPATCH started, records Enter, and leaves the
interrupted context and everything else as they were. -/
def Obligations.EntryPushesADispatcherFrame : Prop :=
  ∀ (i : Inst) (s : State) (ts : List Turn), s.fault = none → paramsLegal s.cfg = true →
    s.schedule = .enter :: ts → s.nextEntry = some i →
    step s = .next { s with
      schedule := ts
      pending := s.pending.set (s.cfg.lineOf i) false
      active := ⟨s.cfg.lineOf i, i, ⟨some ⟨.irqDispatch i, {}, 0, []⟩, none⟩⟩ :: s.active
      trace := s.trace ++ [.enter (s.cfg.lineOf i)]
      draws := s.draws + 1 }

/-- R313, R316, R317, R319: the line entered is a pending, enabled line of a recognised instance, strictly more urgent than
the frame on top, with fewer than 16 frames active, and no eligible line has a lower priority value, or the same and a lower number. -/
def Obligations.EntryTakesTheMostUrgentEligibleLine : Prop :=
  ∀ (i : Inst) (s : State), s.nextEntry = some i →
    (s.cfg.hasInst i = true ∧ s.isPending (s.cfg.lineOf i) = true
      ∧ s.cfg.lineOf i / 32 < s.cfg.numBanks
      ∧ (s.enableWord (s.cfg.lineOf i / 32)).getLsbD (s.cfg.lineOf i % 32) = true ∧ s.fault = none
      ∧ (∀ f fs, s.active = f :: fs →
          (s.linePriority (s.cfg.lineOf i)).toNat < (s.linePriority f.line).toNat)
      ∧ s.active.length < 16)
    ∧ ∀ j, s.eligible j = true →
        (s.linePriority (s.cfg.lineOf i)).toNat < (s.linePriority (s.cfg.lineOf j)).toNat
        ∨ ((s.linePriority (s.cfg.lineOf i)).toNat = (s.linePriority (s.cfg.lineOf j)).toNat
            ∧ s.cfg.lineOf i ≤ s.cfg.lineOf j)

/-- R324, R224, R362: `step` is the machine in the free environment, and in every environment, when no turn is named, a line is
entered if some line is eligible and the depth of R319 is not reached, and where no line can be entered and no base-level command
is about to start, the current context takes its step and the environment names its next turns: the model's choices for an empty
list of turns (log entry 2). So entry and command steps are weakly fair. Hardware events and pending steps have no fairness: in the
environment that names none, no line ever becomes pending, however long a request stands. And in the environment that
takes the pending step again and again, a request that the dispatcher does not clear is served without end: each service is an
entry, the read of SR, the callback, the completion and the return, and the base level never goes on. -/
def Obligations.EligibleLineIsEnteredWhenNoTurnIsNamed : Prop :=
  (∀ s : State, step s = machineStep Config.environment s)
  ∧ (∀ (env : Environment) (s : State) (j : Inst), paramsLegal s.cfg = true → s.schedule = [] → s.eligible j = true →
    s.active.length < 16 → ∃ i, s.nextEntry = some i ∧ machineStep env s = .next (s.enterInterrupt i))
  ∧ (∀ (env : Environment) (s : State), s.fault = none → paramsLegal s.cfg = true → s.schedule = [] →
    s.nextEntry = none → s.commandWaits = false →
    machineStep env s = contextStep { s with schedule := env s.draws, draws := s.draws + 1 })
  ∧ (∀ (s t : State) (n : Nat), s.schedule = [] → runSteps (fun _ => []) n s = .next t →
    ∀ l, t.isPending l = true → s.isPending l = true)
  ∧ (∀ s : State, s.fault = none → paramsLegal s.cfg = true → s.schedule = [] → s.betweenCommands = true →
    fetch s = none → (∀ j, s.cfg.hasInst j = true → s.isPending (s.cfg.lineOf j) = false) →
    ∀ n, runSteps (fun _ => []) n s = .next { s with draws := s.draws + n })
  ∧ ∀ (i : Inst) (s : State), paramsLegal s.cfg = true → s.schedule = [] → s.active = [] → s.eligible i = true →
    s.clocked i = true → (s.reg i .sr).getLsbD 0 = false →
    (∃ k, 1 ≤ k ∧ k ≤ 4 ∧ (s.reg i .sr).getLsbD k = true ∧ (s.reg i .ier).getLsbD k = true) →
    s.cfg.callbackProgram .captureEvent i = [] →
    (∀ j, j ≠ i → s.cfg.hasInst j = true → s.isPending (s.cfg.lineOf j) = false) →
    ∀ n, runSteps (fun _ => [.pend i]) (9 * n) s = .next { s with
      trace := s.trace ++ (List.replicate n [.enter (s.cfg.lineOf i), .callback .captureEvent i,
        .ret (s.cfg.lineOf i)]).flatten
      draws := s.draws + 5 * n }

/-- R315: when the top frame's dispatcher has completed, the context's next step pops the frame, records Return and
restores nothing. -/
def Obligations.ReturnPopsTheFrameAndRestoresNothing : Prop :=
  ∀ (f : Frame) (fs : List Frame) (s : State) (ts : List Turn), s.fault = none →
    paramsLegal s.cfg = true → s.active = f :: fs → f.ctx = ⟨none, none⟩ →
    (s.schedule = .access :: ts ∨ s.schedule = .command :: ts) →
    step s = .next { s with schedule := ts, active := fs, trace := s.trace ++ [.ret f.line] }

/-! ## Invariants -/

/-- R40, R43, R77, R314, R319: legal parameters, named bits only, low priority nibbles 0, the sizes of the interrupt
controller, the frames' lines and the bound on their number are kept by every step from every state. -/
def Obligations.StepKeepsTheInvariant : Prop :=
  ∀ s t : State, s.Inv → step s = .next t → t.Inv

/-- R55: the invariant holds after reset. -/
def Obligations.ResetSatisfiesTheInvariant : Prop := State.reset.Inv

/-- R314, R333: every step keeps that a frame runs nothing but the dispatcher of its instance. -/
def Obligations.StepKeepsFramesOnTheirDispatcher : Prop :=
  ∀ s t : State, s.framesDispatch → step s = .next t → t.framesDispatch

/-- R7, R50, R85: no step changes the parameters or the base-level program. -/
def Obligations.StepNeverChangesTheLaunch : Prop :=
  ∀ s t : State, step s = .next t → t.cfg = s.cfg ∧ t.prog = s.prog

/-- R50, R10: a step leaves the command index or advances it by one, and by one only while no frame is active; and where the
steps of a command are taken one at a time, the advance is a step that does nothing but complete the command. -/
def Obligations.StepMovesTheCommandIndexByAtMostOne : Prop :=
  (∀ s t : State, step s = .next t → t.cpc = s.cpc ∨ (t.cpc = s.cpc + 1 ∧ s.active = []))
  ∧ ∀ s t : State, contextStep s = .next t →
    t.cpc = s.cpc ∨ (s.active = [] ∧ t = { s with base := ⟨none, none⟩, cpc := s.cpc + 1 })

/-- R54: the trace only grows: what a step records stands after everything recorded before. -/
def Obligations.TraceOnlyGrows : Prop :=
  ∀ s t : State, step s = .next t → ∃ more, t.trace = s.trace ++ more

/-- R55, R350: what reset leaves. -/
def Obligations.ResetLeavesEverythingAtItsResetValue : Prop :=
  (∀ i r, State.reset.reg i r = 0#16) ∧ (∀ i, State.reset.handle i = Handle.unwritten)
    ∧ State.reset.clkHS = 0#32 ∧ State.reset.clkLS = 0#32
    ∧ State.reset.enable = [0#32, 0#32, 0#32] ∧ State.reset.prio = List.replicate 24 0#32
    ∧ (∀ l, State.reset.isPending l = false) ∧ State.reset.active = []
    ∧ State.reset.base = ⟨none, none⟩ ∧ State.reset.cpc = 0 ∧ State.reset.result = 0#32
    ∧ State.reset.fault = none ∧ State.reset.trace = []

/-! ## Address map (20_memory.md) -/

/-- R79, R80: an address that is no register's base address, or a width other than the register's own, is refused; every
other access is the access of the register the address names: a timer register's `Rd` and `Wr` (R71, R72, R73), a clock register's
(R75), an enable or disable word's (R76), a priority word's (R77). The map's form is the model's (log entry 19), and so is that a
fault is handed back as its cause, no fault state being set or looked at (log entry 32). -/
def Obligations.MemoryAccessIsRefusedOffTheMap : Prop :=
  ∀ (s : State) (addr n : Nat) (v : Word), (s.cfg.regAddress.map Prod.fst).Nodup →
    ((∀ t, (addr, t) ∉ s.cfg.regAddress) →
      memRead addr n s = .error (.noRegisterAt addr n) ∧ memWrite addr n v s = .error (.noRegisterAt addr n))
    ∧ (∀ t, (addr, t) ∈ s.cfg.regAddress → n ≠ RegTarget.bytes t →
      memRead addr n s = .error (.noRegisterAt addr n) ∧ memWrite addr n v s = .error (.noRegisterAt addr n))
    ∧ (∀ i r, (addr, .timer i r) ∈ s.cfg.regAddress → s.cfg.hasInst i = true → s.cfg.regAt i r.index = some r →
      (s.clocked i = true →
        memRead addr 2 s = .ok (.ok ((s.reg i r).setWidth 32))
        ∧ memWrite addr 2 v s
          = .ok (.ok (s.setReg i r (storedValue s.cfg r (s.reg i r) (v.setWidth 16)))))
      ∧ (s.clocked i = false → s.cfg.unclockedPolicy = .fault →
        memRead addr 2 s = .ok (.error (.unclockedAccess i r))
        ∧ memWrite addr 2 v s = .ok (.error (.unclockedAccess i r)))
      ∧ (s.clocked i = false → s.cfg.unclockedPolicy = .ignore →
        memRead addr 2 s = .ok (.ok 0) ∧ memWrite addr 2 v s = .ok (.ok s)))
    ∧ (∀ b, (addr, .clock b) ∈ s.cfg.regAddress →
      memRead addr 4 s = .ok (.ok (s.clk b)) ∧ memWrite addr 4 v s = .ok (.ok (s.setClk b v)))
    ∧ (∀ b, (addr, .iser b) ∈ s.cfg.regAddress → b < s.cfg.numBanks →
      memRead addr 4 s = .ok (.ok (s.enableWord b))
      ∧ memWrite addr 4 v s = .ok (.ok { s with enable := s.enable.set b (s.enableWord b ||| v) }))
    ∧ (∀ b, (addr, .icer b) ∈ s.cfg.regAddress → b < s.cfg.numBanks →
      memRead addr 4 s = .ok (.ok (s.enableWord b))
      ∧ memWrite addr 4 v s = .ok (.ok { s with enable := s.enable.set b (s.enableWord b &&& ~~~v) }))
    ∧ (∀ k, (addr, .ipr k) ∈ s.cfg.regAddress → k < s.cfg.numPrioSlots →
      memRead addr 4 s = .ok (.ok (s.prioWord k))
      ∧ memWrite addr 4 v s = .ok (.ok { s with prio := s.prio.set k (v &&& 0xF0F0F0F0#32) }))
    ∧ (∀ t, (addr, t) ∈ s.cfg.regAddress → RegTarget.present s.cfg t = false →
      memRead addr n s = .error (.noRegisterAt addr n) ∧ memWrite addr n v s = .error (.noRegisterAt addr n))
end

