-- ==== Sys2Proof/Laws/State.lean ====
section
/-!
SUPPORT. What every update of State leaves alone, one lemma for each field, and the reads of what it writes: no later proof
unfolds a record update.
-/
namespace Sys2Proof.Machine

open Sys2Proof

variable (s : State)

/-! ## setTimer -/

@[simp] theorem State.setTimer_cfg (i : Inst) (x : TimerRegs) : (s.setTimer i x).cfg = s.cfg := rfl
@[simp] theorem State.setTimer_prog (i : Inst) (x : TimerRegs) : (s.setTimer i x).prog = s.prog := rfl
@[simp] theorem State.setTimer_schedule (i : Inst) (x : TimerRegs) : (s.setTimer i x).schedule = s.schedule := rfl
@[simp] theorem State.setTimer_handles (i : Inst) (x : TimerRegs) : (s.setTimer i x).handles = s.handles := rfl
@[simp] theorem State.setTimer_clkHS (i : Inst) (x : TimerRegs) : (s.setTimer i x).clkHS = s.clkHS := rfl
@[simp] theorem State.setTimer_clkLS (i : Inst) (x : TimerRegs) : (s.setTimer i x).clkLS = s.clkLS := rfl
@[simp] theorem State.setTimer_enable (i : Inst) (x : TimerRegs) : (s.setTimer i x).enable = s.enable := rfl
@[simp] theorem State.setTimer_prio (i : Inst) (x : TimerRegs) : (s.setTimer i x).prio = s.prio := rfl
@[simp] theorem State.setTimer_pending (i : Inst) (x : TimerRegs) : (s.setTimer i x).pending = s.pending := rfl
@[simp] theorem State.setTimer_active (i : Inst) (x : TimerRegs) : (s.setTimer i x).active = s.active := rfl
@[simp] theorem State.setTimer_base (i : Inst) (x : TimerRegs) : (s.setTimer i x).base = s.base := rfl
@[simp] theorem State.setTimer_cpc (i : Inst) (x : TimerRegs) : (s.setTimer i x).cpc = s.cpc := rfl
@[simp] theorem State.setTimer_result (i : Inst) (x : TimerRegs) : (s.setTimer i x).result = s.result := rfl
@[simp] theorem State.setTimer_fault (i : Inst) (x : TimerRegs) : (s.setTimer i x).fault = s.fault := rfl
@[simp] theorem State.setTimer_trace (i : Inst) (x : TimerRegs) : (s.setTimer i x).trace = s.trace := rfl
@[simp] theorem State.setTimer_draws (i : Inst) (x : TimerRegs) : (s.setTimer i x).draws = s.draws := rfl

/-! ## setReg -/

@[simp] theorem State.setReg_cfg (i : Inst) (r : Reg) (v : Half) : (s.setReg i r v).cfg = s.cfg := rfl
@[simp] theorem State.setReg_prog (i : Inst) (r : Reg) (v : Half) : (s.setReg i r v).prog = s.prog := rfl
@[simp] theorem State.setReg_schedule (i : Inst) (r : Reg) (v : Half) : (s.setReg i r v).schedule = s.schedule := rfl
@[simp] theorem State.setReg_handles (i : Inst) (r : Reg) (v : Half) : (s.setReg i r v).handles = s.handles := rfl
@[simp] theorem State.setReg_clkHS (i : Inst) (r : Reg) (v : Half) : (s.setReg i r v).clkHS = s.clkHS := rfl
@[simp] theorem State.setReg_clkLS (i : Inst) (r : Reg) (v : Half) : (s.setReg i r v).clkLS = s.clkLS := rfl
@[simp] theorem State.setReg_enable (i : Inst) (r : Reg) (v : Half) : (s.setReg i r v).enable = s.enable := rfl
@[simp] theorem State.setReg_prio (i : Inst) (r : Reg) (v : Half) : (s.setReg i r v).prio = s.prio := rfl
@[simp] theorem State.setReg_pending (i : Inst) (r : Reg) (v : Half) : (s.setReg i r v).pending = s.pending := rfl
@[simp] theorem State.setReg_active (i : Inst) (r : Reg) (v : Half) : (s.setReg i r v).active = s.active := rfl
@[simp] theorem State.setReg_base (i : Inst) (r : Reg) (v : Half) : (s.setReg i r v).base = s.base := rfl
@[simp] theorem State.setReg_cpc (i : Inst) (r : Reg) (v : Half) : (s.setReg i r v).cpc = s.cpc := rfl
@[simp] theorem State.setReg_result (i : Inst) (r : Reg) (v : Half) : (s.setReg i r v).result = s.result := rfl
@[simp] theorem State.setReg_fault (i : Inst) (r : Reg) (v : Half) : (s.setReg i r v).fault = s.fault := rfl
@[simp] theorem State.setReg_trace (i : Inst) (r : Reg) (v : Half) : (s.setReg i r v).trace = s.trace := rfl
@[simp] theorem State.setReg_draws (i : Inst) (r : Reg) (v : Half) : (s.setReg i r v).draws = s.draws := rfl

/-! ## setHandle -/

@[simp] theorem State.setHandle_cfg (i : Inst) (h : Handle) : (s.setHandle i h).cfg = s.cfg := rfl
@[simp] theorem State.setHandle_prog (i : Inst) (h : Handle) : (s.setHandle i h).prog = s.prog := rfl
@[simp] theorem State.setHandle_schedule (i : Inst) (h : Handle) : (s.setHandle i h).schedule = s.schedule := rfl
@[simp] theorem State.setHandle_timers (i : Inst) (h : Handle) : (s.setHandle i h).timers = s.timers := rfl
@[simp] theorem State.setHandle_clkHS (i : Inst) (h : Handle) : (s.setHandle i h).clkHS = s.clkHS := rfl
@[simp] theorem State.setHandle_clkLS (i : Inst) (h : Handle) : (s.setHandle i h).clkLS = s.clkLS := rfl
@[simp] theorem State.setHandle_enable (i : Inst) (h : Handle) : (s.setHandle i h).enable = s.enable := rfl
@[simp] theorem State.setHandle_prio (i : Inst) (h : Handle) : (s.setHandle i h).prio = s.prio := rfl
@[simp] theorem State.setHandle_pending (i : Inst) (h : Handle) : (s.setHandle i h).pending = s.pending := rfl
@[simp] theorem State.setHandle_active (i : Inst) (h : Handle) : (s.setHandle i h).active = s.active := rfl
@[simp] theorem State.setHandle_base (i : Inst) (h : Handle) : (s.setHandle i h).base = s.base := rfl
@[simp] theorem State.setHandle_cpc (i : Inst) (h : Handle) : (s.setHandle i h).cpc = s.cpc := rfl
@[simp] theorem State.setHandle_result (i : Inst) (h : Handle) : (s.setHandle i h).result = s.result := rfl
@[simp] theorem State.setHandle_fault (i : Inst) (h : Handle) : (s.setHandle i h).fault = s.fault := rfl
@[simp] theorem State.setHandle_trace (i : Inst) (h : Handle) : (s.setHandle i h).trace = s.trace := rfl
@[simp] theorem State.setHandle_draws (i : Inst) (h : Handle) : (s.setHandle i h).draws = s.draws := rfl

/-! ## setClk -/

@[simp] theorem State.setClk_cfg (b : Bus) (v : Word) : (s.setClk b v).cfg = s.cfg := by cases b <;> rfl
@[simp] theorem State.setClk_prog (b : Bus) (v : Word) : (s.setClk b v).prog = s.prog := by cases b <;> rfl
@[simp] theorem State.setClk_schedule (b : Bus) (v : Word) : (s.setClk b v).schedule = s.schedule := by cases b <;> rfl
@[simp] theorem State.setClk_timers (b : Bus) (v : Word) : (s.setClk b v).timers = s.timers := by cases b <;> rfl
@[simp] theorem State.setClk_handles (b : Bus) (v : Word) : (s.setClk b v).handles = s.handles := by cases b <;> rfl
@[simp] theorem State.setClk_enable (b : Bus) (v : Word) : (s.setClk b v).enable = s.enable := by cases b <;> rfl
@[simp] theorem State.setClk_prio (b : Bus) (v : Word) : (s.setClk b v).prio = s.prio := by cases b <;> rfl
@[simp] theorem State.setClk_pending (b : Bus) (v : Word) : (s.setClk b v).pending = s.pending := by cases b <;> rfl
@[simp] theorem State.setClk_active (b : Bus) (v : Word) : (s.setClk b v).active = s.active := by cases b <;> rfl
@[simp] theorem State.setClk_base (b : Bus) (v : Word) : (s.setClk b v).base = s.base := by cases b <;> rfl
@[simp] theorem State.setClk_cpc (b : Bus) (v : Word) : (s.setClk b v).cpc = s.cpc := by cases b <;> rfl
@[simp] theorem State.setClk_result (b : Bus) (v : Word) : (s.setClk b v).result = s.result := by cases b <;> rfl
@[simp] theorem State.setClk_fault (b : Bus) (v : Word) : (s.setClk b v).fault = s.fault := by cases b <;> rfl
@[simp] theorem State.setClk_trace (b : Bus) (v : Word) : (s.setClk b v).trace = s.trace := by cases b <;> rfl
@[simp] theorem State.setClk_draws (b : Bus) (v : Word) : (s.setClk b v).draws = s.draws := by cases b <;> rfl

/-! ## setPending -/

@[simp] theorem State.setPending_cfg (l : Nat) (v : Bool) : (s.setPending l v).cfg = s.cfg := rfl
@[simp] theorem State.setPending_prog (l : Nat) (v : Bool) : (s.setPending l v).prog = s.prog := rfl
@[simp] theorem State.setPending_schedule (l : Nat) (v : Bool) : (s.setPending l v).schedule = s.schedule := rfl
@[simp] theorem State.setPending_timers (l : Nat) (v : Bool) : (s.setPending l v).timers = s.timers := rfl
@[simp] theorem State.setPending_handles (l : Nat) (v : Bool) : (s.setPending l v).handles = s.handles := rfl
@[simp] theorem State.setPending_clkHS (l : Nat) (v : Bool) : (s.setPending l v).clkHS = s.clkHS := rfl
@[simp] theorem State.setPending_clkLS (l : Nat) (v : Bool) : (s.setPending l v).clkLS = s.clkLS := rfl
@[simp] theorem State.setPending_enable (l : Nat) (v : Bool) : (s.setPending l v).enable = s.enable := rfl
@[simp] theorem State.setPending_prio (l : Nat) (v : Bool) : (s.setPending l v).prio = s.prio := rfl
@[simp] theorem State.setPending_active (l : Nat) (v : Bool) : (s.setPending l v).active = s.active := rfl
@[simp] theorem State.setPending_base (l : Nat) (v : Bool) : (s.setPending l v).base = s.base := rfl
@[simp] theorem State.setPending_cpc (l : Nat) (v : Bool) : (s.setPending l v).cpc = s.cpc := rfl
@[simp] theorem State.setPending_result (l : Nat) (v : Bool) : (s.setPending l v).result = s.result := rfl
@[simp] theorem State.setPending_fault (l : Nat) (v : Bool) : (s.setPending l v).fault = s.fault := rfl
@[simp] theorem State.setPending_trace (l : Nat) (v : Bool) : (s.setPending l v).trace = s.trace := rfl
@[simp] theorem State.setPending_draws (l : Nat) (v : Bool) : (s.setPending l v).draws = s.draws := rfl

/-! ## wrISER -/

@[simp] theorem State.wrISER_cfg (b : Nat) (v : Word) : (s.wrISER b v).cfg = s.cfg := rfl
@[simp] theorem State.wrISER_prog (b : Nat) (v : Word) : (s.wrISER b v).prog = s.prog := rfl
@[simp] theorem State.wrISER_schedule (b : Nat) (v : Word) : (s.wrISER b v).schedule = s.schedule := rfl
@[simp] theorem State.wrISER_timers (b : Nat) (v : Word) : (s.wrISER b v).timers = s.timers := rfl
@[simp] theorem State.wrISER_handles (b : Nat) (v : Word) : (s.wrISER b v).handles = s.handles := rfl
@[simp] theorem State.wrISER_clkHS (b : Nat) (v : Word) : (s.wrISER b v).clkHS = s.clkHS := rfl
@[simp] theorem State.wrISER_clkLS (b : Nat) (v : Word) : (s.wrISER b v).clkLS = s.clkLS := rfl
@[simp] theorem State.wrISER_prio (b : Nat) (v : Word) : (s.wrISER b v).prio = s.prio := rfl
@[simp] theorem State.wrISER_pending (b : Nat) (v : Word) : (s.wrISER b v).pending = s.pending := rfl
@[simp] theorem State.wrISER_active (b : Nat) (v : Word) : (s.wrISER b v).active = s.active := rfl
@[simp] theorem State.wrISER_base (b : Nat) (v : Word) : (s.wrISER b v).base = s.base := rfl
@[simp] theorem State.wrISER_cpc (b : Nat) (v : Word) : (s.wrISER b v).cpc = s.cpc := rfl
@[simp] theorem State.wrISER_result (b : Nat) (v : Word) : (s.wrISER b v).result = s.result := rfl
@[simp] theorem State.wrISER_fault (b : Nat) (v : Word) : (s.wrISER b v).fault = s.fault := rfl
@[simp] theorem State.wrISER_trace (b : Nat) (v : Word) : (s.wrISER b v).trace = s.trace := rfl
@[simp] theorem State.wrISER_draws (b : Nat) (v : Word) : (s.wrISER b v).draws = s.draws := rfl

/-! ## wrICER -/

@[simp] theorem State.wrICER_cfg (b : Nat) (v : Word) : (s.wrICER b v).cfg = s.cfg := rfl
@[simp] theorem State.wrICER_prog (b : Nat) (v : Word) : (s.wrICER b v).prog = s.prog := rfl
@[simp] theorem State.wrICER_schedule (b : Nat) (v : Word) : (s.wrICER b v).schedule = s.schedule := rfl
@[simp] theorem State.wrICER_timers (b : Nat) (v : Word) : (s.wrICER b v).timers = s.timers := rfl
@[simp] theorem State.wrICER_handles (b : Nat) (v : Word) : (s.wrICER b v).handles = s.handles := rfl
@[simp] theorem State.wrICER_clkHS (b : Nat) (v : Word) : (s.wrICER b v).clkHS = s.clkHS := rfl
@[simp] theorem State.wrICER_clkLS (b : Nat) (v : Word) : (s.wrICER b v).clkLS = s.clkLS := rfl
@[simp] theorem State.wrICER_prio (b : Nat) (v : Word) : (s.wrICER b v).prio = s.prio := rfl
@[simp] theorem State.wrICER_pending (b : Nat) (v : Word) : (s.wrICER b v).pending = s.pending := rfl
@[simp] theorem State.wrICER_active (b : Nat) (v : Word) : (s.wrICER b v).active = s.active := rfl
@[simp] theorem State.wrICER_base (b : Nat) (v : Word) : (s.wrICER b v).base = s.base := rfl
@[simp] theorem State.wrICER_cpc (b : Nat) (v : Word) : (s.wrICER b v).cpc = s.cpc := rfl
@[simp] theorem State.wrICER_result (b : Nat) (v : Word) : (s.wrICER b v).result = s.result := rfl
@[simp] theorem State.wrICER_fault (b : Nat) (v : Word) : (s.wrICER b v).fault = s.fault := rfl
@[simp] theorem State.wrICER_trace (b : Nat) (v : Word) : (s.wrICER b v).trace = s.trace := rfl
@[simp] theorem State.wrICER_draws (b : Nat) (v : Word) : (s.wrICER b v).draws = s.draws := rfl

/-! ## wrIPR -/

@[simp] theorem State.wrIPR_cfg (n : Nat) (v : Word) : (s.wrIPR n v).cfg = s.cfg := rfl
@[simp] theorem State.wrIPR_prog (n : Nat) (v : Word) : (s.wrIPR n v).prog = s.prog := rfl
@[simp] theorem State.wrIPR_schedule (n : Nat) (v : Word) : (s.wrIPR n v).schedule = s.schedule := rfl
@[simp] theorem State.wrIPR_timers (n : Nat) (v : Word) : (s.wrIPR n v).timers = s.timers := rfl
@[simp] theorem State.wrIPR_handles (n : Nat) (v : Word) : (s.wrIPR n v).handles = s.handles := rfl
@[simp] theorem State.wrIPR_clkHS (n : Nat) (v : Word) : (s.wrIPR n v).clkHS = s.clkHS := rfl
@[simp] theorem State.wrIPR_clkLS (n : Nat) (v : Word) : (s.wrIPR n v).clkLS = s.clkLS := rfl
@[simp] theorem State.wrIPR_enable (n : Nat) (v : Word) : (s.wrIPR n v).enable = s.enable := rfl
@[simp] theorem State.wrIPR_pending (n : Nat) (v : Word) : (s.wrIPR n v).pending = s.pending := rfl
@[simp] theorem State.wrIPR_active (n : Nat) (v : Word) : (s.wrIPR n v).active = s.active := rfl
@[simp] theorem State.wrIPR_base (n : Nat) (v : Word) : (s.wrIPR n v).base = s.base := rfl
@[simp] theorem State.wrIPR_cpc (n : Nat) (v : Word) : (s.wrIPR n v).cpc = s.cpc := rfl
@[simp] theorem State.wrIPR_result (n : Nat) (v : Word) : (s.wrIPR n v).result = s.result := rfl
@[simp] theorem State.wrIPR_fault (n : Nat) (v : Word) : (s.wrIPR n v).fault = s.fault := rfl
@[simp] theorem State.wrIPR_trace (n : Nat) (v : Word) : (s.wrIPR n v).trace = s.trace := rfl
@[simp] theorem State.wrIPR_draws (n : Nat) (v : Word) : (s.wrIPR n v).draws = s.draws := rfl

/-! ## setCurrent -/

@[simp] theorem State.setCurrent_cfg (c : Context) : (s.setCurrent c).cfg = s.cfg := by unfold State.setCurrent; split <;> rfl
@[simp] theorem State.setCurrent_prog (c : Context) : (s.setCurrent c).prog = s.prog := by unfold State.setCurrent; split <;> rfl
@[simp] theorem State.setCurrent_schedule (c : Context) : (s.setCurrent c).schedule = s.schedule := by unfold State.setCurrent; split <;> rfl
@[simp] theorem State.setCurrent_timers (c : Context) : (s.setCurrent c).timers = s.timers := by unfold State.setCurrent; split <;> rfl
@[simp] theorem State.setCurrent_handles (c : Context) : (s.setCurrent c).handles = s.handles := by unfold State.setCurrent; split <;> rfl
@[simp] theorem State.setCurrent_clkHS (c : Context) : (s.setCurrent c).clkHS = s.clkHS := by unfold State.setCurrent; split <;> rfl
@[simp] theorem State.setCurrent_clkLS (c : Context) : (s.setCurrent c).clkLS = s.clkLS := by unfold State.setCurrent; split <;> rfl
@[simp] theorem State.setCurrent_enable (c : Context) : (s.setCurrent c).enable = s.enable := by unfold State.setCurrent; split <;> rfl
@[simp] theorem State.setCurrent_prio (c : Context) : (s.setCurrent c).prio = s.prio := by unfold State.setCurrent; split <;> rfl
@[simp] theorem State.setCurrent_pending (c : Context) : (s.setCurrent c).pending = s.pending := by unfold State.setCurrent; split <;> rfl
@[simp] theorem State.setCurrent_cpc (c : Context) : (s.setCurrent c).cpc = s.cpc := by unfold State.setCurrent; split <;> rfl
@[simp] theorem State.setCurrent_result (c : Context) : (s.setCurrent c).result = s.result := by unfold State.setCurrent; split <;> rfl
@[simp] theorem State.setCurrent_fault (c : Context) : (s.setCurrent c).fault = s.fault := by unfold State.setCurrent; split <;> rfl
@[simp] theorem State.setCurrent_trace (c : Context) : (s.setCurrent c).trace = s.trace := by unfold State.setCurrent; split <;> rfl
@[simp] theorem State.setCurrent_draws (c : Context) : (s.setCurrent c).draws = s.draws := by unfold State.setCurrent; split <;> rfl

/-! ## raise -/

@[simp] theorem State.raise_cfg (c : FaultCause) (w : Word) : (s.raise c w).cfg = s.cfg := rfl
@[simp] theorem State.raise_prog (c : FaultCause) (w : Word) : (s.raise c w).prog = s.prog := rfl
@[simp] theorem State.raise_schedule (c : FaultCause) (w : Word) : (s.raise c w).schedule = s.schedule := rfl
@[simp] theorem State.raise_timers (c : FaultCause) (w : Word) : (s.raise c w).timers = s.timers := rfl
@[simp] theorem State.raise_handles (c : FaultCause) (w : Word) : (s.raise c w).handles = s.handles := rfl
@[simp] theorem State.raise_clkHS (c : FaultCause) (w : Word) : (s.raise c w).clkHS = s.clkHS := rfl
@[simp] theorem State.raise_clkLS (c : FaultCause) (w : Word) : (s.raise c w).clkLS = s.clkLS := rfl
@[simp] theorem State.raise_enable (c : FaultCause) (w : Word) : (s.raise c w).enable = s.enable := rfl
@[simp] theorem State.raise_prio (c : FaultCause) (w : Word) : (s.raise c w).prio = s.prio := rfl
@[simp] theorem State.raise_pending (c : FaultCause) (w : Word) : (s.raise c w).pending = s.pending := rfl
@[simp] theorem State.raise_active (c : FaultCause) (w : Word) : (s.raise c w).active = s.active := rfl
@[simp] theorem State.raise_base (c : FaultCause) (w : Word) : (s.raise c w).base = s.base := rfl
@[simp] theorem State.raise_cpc (c : FaultCause) (w : Word) : (s.raise c w).cpc = s.cpc := rfl
@[simp] theorem State.raise_result (c : FaultCause) (w : Word) : (s.raise c w).result = s.result := rfl
@[simp] theorem State.raise_trace (c : FaultCause) (w : Word) : (s.raise c w).trace = s.trace := rfl
@[simp] theorem State.raise_draws (c : FaultCause) (w : Word) : (s.raise c w).draws = s.draws := rfl

/-! ## advance -/

@[simp] theorem State.advance_cfg : (s.advance).cfg = s.cfg := by unfold State.advance; split <;> rfl
@[simp] theorem State.advance_prog : (s.advance).prog = s.prog := by unfold State.advance; split <;> rfl
@[simp] theorem State.advance_schedule : (s.advance).schedule = s.schedule := by unfold State.advance; split <;> rfl
@[simp] theorem State.advance_timers : (s.advance).timers = s.timers := by unfold State.advance; split <;> rfl
@[simp] theorem State.advance_handles : (s.advance).handles = s.handles := by unfold State.advance; split <;> rfl
@[simp] theorem State.advance_clkHS : (s.advance).clkHS = s.clkHS := by unfold State.advance; split <;> rfl
@[simp] theorem State.advance_clkLS : (s.advance).clkLS = s.clkLS := by unfold State.advance; split <;> rfl
@[simp] theorem State.advance_enable : (s.advance).enable = s.enable := by unfold State.advance; split <;> rfl
@[simp] theorem State.advance_prio : (s.advance).prio = s.prio := by unfold State.advance; split <;> rfl
@[simp] theorem State.advance_pending : (s.advance).pending = s.pending := by unfold State.advance; split <;> rfl
@[simp] theorem State.advance_active : (s.advance).active = s.active := by unfold State.advance; split <;> rfl
@[simp] theorem State.advance_base : (s.advance).base = s.base := by unfold State.advance; split <;> rfl
@[simp] theorem State.advance_result : (s.advance).result = s.result := by unfold State.advance; split <;> rfl
@[simp] theorem State.advance_fault : (s.advance).fault = s.fault := by unfold State.advance; split <;> rfl
@[simp] theorem State.advance_trace : (s.advance).trace = s.trace := by unfold State.advance; split <;> rfl
@[simp] theorem State.advance_draws : (s.advance).draws = s.draws := by unfold State.advance; split <;> rfl

/-! ## enterInterrupt -/

@[simp] theorem State.enterInterrupt_cfg (i : Inst) : (s.enterInterrupt i).cfg = s.cfg := rfl
@[simp] theorem State.enterInterrupt_prog (i : Inst) : (s.enterInterrupt i).prog = s.prog := rfl
@[simp] theorem State.enterInterrupt_schedule (i : Inst) : (s.enterInterrupt i).schedule = s.schedule := rfl
@[simp] theorem State.enterInterrupt_timers (i : Inst) : (s.enterInterrupt i).timers = s.timers := rfl
@[simp] theorem State.enterInterrupt_handles (i : Inst) : (s.enterInterrupt i).handles = s.handles := rfl
@[simp] theorem State.enterInterrupt_clkHS (i : Inst) : (s.enterInterrupt i).clkHS = s.clkHS := rfl
@[simp] theorem State.enterInterrupt_clkLS (i : Inst) : (s.enterInterrupt i).clkLS = s.clkLS := rfl
@[simp] theorem State.enterInterrupt_enable (i : Inst) : (s.enterInterrupt i).enable = s.enable := rfl
@[simp] theorem State.enterInterrupt_prio (i : Inst) : (s.enterInterrupt i).prio = s.prio := rfl
@[simp] theorem State.enterInterrupt_base (i : Inst) : (s.enterInterrupt i).base = s.base := rfl
@[simp] theorem State.enterInterrupt_cpc (i : Inst) : (s.enterInterrupt i).cpc = s.cpc := rfl
@[simp] theorem State.enterInterrupt_result (i : Inst) : (s.enterInterrupt i).result = s.result := rfl
@[simp] theorem State.enterInterrupt_fault (i : Inst) : (s.enterInterrupt i).fault = s.fault := rfl

/-! ## returnFromInterrupt -/

@[simp] theorem State.returnFromInterrupt_cfg : (s.returnFromInterrupt).cfg = s.cfg := by unfold State.returnFromInterrupt; split <;> rfl
@[simp] theorem State.returnFromInterrupt_prog : (s.returnFromInterrupt).prog = s.prog := by unfold State.returnFromInterrupt; split <;> rfl
@[simp] theorem State.returnFromInterrupt_schedule : (s.returnFromInterrupt).schedule = s.schedule := by unfold State.returnFromInterrupt; split <;> rfl
@[simp] theorem State.returnFromInterrupt_timers : (s.returnFromInterrupt).timers = s.timers := by unfold State.returnFromInterrupt; split <;> rfl
@[simp] theorem State.returnFromInterrupt_handles : (s.returnFromInterrupt).handles = s.handles := by unfold State.returnFromInterrupt; split <;> rfl
@[simp] theorem State.returnFromInterrupt_clkHS : (s.returnFromInterrupt).clkHS = s.clkHS := by unfold State.returnFromInterrupt; split <;> rfl
@[simp] theorem State.returnFromInterrupt_clkLS : (s.returnFromInterrupt).clkLS = s.clkLS := by unfold State.returnFromInterrupt; split <;> rfl
@[simp] theorem State.returnFromInterrupt_enable : (s.returnFromInterrupt).enable = s.enable := by unfold State.returnFromInterrupt; split <;> rfl
@[simp] theorem State.returnFromInterrupt_prio : (s.returnFromInterrupt).prio = s.prio := by unfold State.returnFromInterrupt; split <;> rfl
@[simp] theorem State.returnFromInterrupt_pending : (s.returnFromInterrupt).pending = s.pending := by unfold State.returnFromInterrupt; split <;> rfl
@[simp] theorem State.returnFromInterrupt_base : (s.returnFromInterrupt).base = s.base := by unfold State.returnFromInterrupt; split <;> rfl
@[simp] theorem State.returnFromInterrupt_cpc : (s.returnFromInterrupt).cpc = s.cpc := by unfold State.returnFromInterrupt; split <;> rfl
@[simp] theorem State.returnFromInterrupt_result : (s.returnFromInterrupt).result = s.result := by unfold State.returnFromInterrupt; split <;> rfl
@[simp] theorem State.returnFromInterrupt_fault : (s.returnFromInterrupt).fault = s.fault := by unfold State.returnFromInterrupt; split <;> rfl
@[simp] theorem State.returnFromInterrupt_draws : (s.returnFromInterrupt).draws = s.draws := by unfold State.returnFromInterrupt; split <;> rfl

/-! ## loadTurns -/

@[simp] theorem State.loadTurns_cfg (env : Environment) : (s.loadTurns env).cfg = s.cfg := rfl
@[simp] theorem State.loadTurns_prog (env : Environment) : (s.loadTurns env).prog = s.prog := rfl
@[simp] theorem State.loadTurns_timers (env : Environment) : (s.loadTurns env).timers = s.timers := rfl
@[simp] theorem State.loadTurns_handles (env : Environment) : (s.loadTurns env).handles = s.handles := rfl
@[simp] theorem State.loadTurns_clkHS (env : Environment) : (s.loadTurns env).clkHS = s.clkHS := rfl
@[simp] theorem State.loadTurns_clkLS (env : Environment) : (s.loadTurns env).clkLS = s.clkLS := rfl
@[simp] theorem State.loadTurns_enable (env : Environment) : (s.loadTurns env).enable = s.enable := rfl
@[simp] theorem State.loadTurns_prio (env : Environment) : (s.loadTurns env).prio = s.prio := rfl
@[simp] theorem State.loadTurns_pending (env : Environment) : (s.loadTurns env).pending = s.pending := rfl
@[simp] theorem State.loadTurns_active (env : Environment) : (s.loadTurns env).active = s.active := rfl
@[simp] theorem State.loadTurns_base (env : Environment) : (s.loadTurns env).base = s.base := rfl
@[simp] theorem State.loadTurns_cpc (env : Environment) : (s.loadTurns env).cpc = s.cpc := rfl
@[simp] theorem State.loadTurns_result (env : Environment) : (s.loadTurns env).result = s.result := rfl
@[simp] theorem State.loadTurns_fault (env : Environment) : (s.loadTurns env).fault = s.fault := rfl
@[simp] theorem State.loadTurns_trace (env : Environment) : (s.loadTurns env).trace = s.trace := rfl
@[simp] theorem State.loadTurns_schedule (env : Environment) : (s.loadTurns env).schedule = env s.draws := rfl
@[simp] theorem State.loadTurns_draws (env : Environment) : (s.loadTurns env).draws = s.draws + 1 := rfl

/-! ## What an update writes -/

@[simp] theorem State.raise_fault (c : FaultCause) (w : Word) :
    (s.raise c w).fault = some ⟨c, w, s.faultContext⟩ := rfl

theorem State.advance_of_base (h : s.active = []) : s.advance = { s with cpc := s.cpc + 1 } := by
  simp [State.advance, h]

@[simp] theorem State.enterInterrupt_active (i : Inst) :
    (s.enterInterrupt i).active = ⟨s.cfg.lineOf i, i, dispatchContext i⟩ :: s.active := rfl

@[simp] theorem State.enterInterrupt_trace (i : Inst) :
    (s.enterInterrupt i).trace = s.trace ++ [.enter (s.cfg.lineOf i)] := rfl

/-! ## The timer register files -/

@[simp] theorem State.timer_setTimer_self (i : Inst) (x : TimerRegs) : (s.setTimer i x).timer i = x := by
  simp [State.timer, State.setTimer]

@[simp] theorem State.timer_setTimer_ne {i j : Inst} (x : TimerRegs) (h : i ≠ j) :
    (s.setTimer i x).timer j = s.timer j := by
  have : i.toNat ≠ j.toNat := fun e => h (BitVec.eq_of_toNat_eq e)
  simp [State.timer, State.setTimer, this]

@[simp] theorem TimerRegs.get_set_self (t : TimerRegs) (r : Reg) (v : Half) : (t.set r v).get r = v := by
  cases r <;> rfl

theorem TimerRegs.get_set_ne (t : TimerRegs) {r q : Reg} (v : Half) (h : r ≠ q) :
    (t.set r v).get q = t.get q := by
  cases r <;> cases q <;> first | rfl | exact absurd rfl h

@[simp] theorem TimerRegs.set_set (t : TimerRegs) (r : Reg) (v w : Half) : (t.set r v).set r w = t.set r w := by
  cases r <;> rfl

@[simp] theorem TimerRegs.set_get (t : TimerRegs) (r : Reg) : t.set r (t.get r) = t := by
  cases r <;> rfl

/-- A write to a register is read back. -/
@[simp] theorem State.reg_setReg_self (i : Inst) (r : Reg) (v : Half) : (s.setReg i r v).reg i r = v := by
  simp [State.reg, State.setReg]

/-- A write to a register leaves every other register alone. -/
theorem State.reg_setReg_ne {i j : Inst} {r q : Reg} (v : Half) (h : i ≠ j ∨ r ≠ q) :
    (s.setReg i r v).reg j q = s.reg j q := by
  by_cases e : i = j
  · subst e
    simp [State.reg, State.setReg, TimerRegs.get_set_ne _ v (h.resolve_left (fun n => n rfl))]
  · simp [State.reg, State.setReg, State.timer_setTimer_ne s _ e]

/-- Every register after a write, at once. -/
theorem State.reg_setReg (i j : Inst) (r q : Reg) (v : Half) :
    (s.setReg i r v).reg j q = if i = j ∧ r = q then v else s.reg j q := by
  split
  · rename_i h; obtain ⟨rfl, rfl⟩ := h; simp
  · rename_i h; exact s.reg_setReg_ne v (not_and_or.mp h)

/-- A second write to the same register replaces the first. -/
@[simp] theorem State.setReg_setReg_same (i : Inst) (r : Reg) (v w : Half) :
    (s.setReg i r v).setReg i r w = s.setReg i r w := by
  simp [State.setReg, State.timer, State.setTimer]

/-- Writing back what a register holds changes nothing. -/
@[simp] theorem State.setReg_reg (i : Inst) (r : Reg) : s.setReg i r (s.reg i r) = s := by
  simp [State.setReg, State.reg, State.timer, State.setTimer]

/-! ## Views that an update of another field leaves alone -/

theorem State.reg_congr {s t : State} (h : t.timers = s.timers) (i : Inst) (r : Reg) :
    t.reg i r = s.reg i r := by
  simp [State.reg, State.timer, h]

@[simp] theorem State.reg_setHandle (i j : Inst) (h : Handle) (r : Reg) :
    (s.setHandle i h).reg j r = s.reg j r := rfl

@[simp] theorem State.reg_setClk (b : Bus) (v : Word) (j : Inst) (r : Reg) :
    (s.setClk b v).reg j r = s.reg j r := by cases b <;> rfl

@[simp] theorem State.reg_setPending (l : Nat) (v : Bool) (j : Inst) (r : Reg) :
    (s.setPending l v).reg j r = s.reg j r := rfl

@[simp] theorem State.reg_wrISER (b : Nat) (v : Word) (j : Inst) (r : Reg) :
    (s.wrISER b v).reg j r = s.reg j r := rfl

@[simp] theorem State.reg_wrICER (b : Nat) (v : Word) (j : Inst) (r : Reg) :
    (s.wrICER b v).reg j r = s.reg j r := rfl

@[simp] theorem State.reg_wrIPR (n : Nat) (v : Word) (j : Inst) (r : Reg) :
    (s.wrIPR n v).reg j r = s.reg j r := rfl

@[simp] theorem State.reg_raise (c : FaultCause) (w : Word) (j : Inst) (r : Reg) :
    (s.raise c w).reg j r = s.reg j r := rfl

@[simp] theorem State.reg_advance (j : Inst) (r : Reg) : s.advance.reg j r = s.reg j r :=
  State.reg_congr (by simp) j r

@[simp] theorem State.reg_setCurrent (c : Context) (j : Inst) (r : Reg) :
    (s.setCurrent c).reg j r = s.reg j r := State.reg_congr (by simp) j r

@[simp] theorem State.reg_enterInterrupt (i j : Inst) (r : Reg) :
    (s.enterInterrupt i).reg j r = s.reg j r := rfl

@[simp] theorem State.reg_returnFromInterrupt (j : Inst) (r : Reg) :
    s.returnFromInterrupt.reg j r = s.reg j r := State.reg_congr (by simp) j r

@[simp] theorem State.clk_setReg (i : Inst) (r : Reg) (v : Half) (b : Bus) :
    (s.setReg i r v).clk b = s.clk b := by cases b <;> rfl

@[simp] theorem State.clk_setClk_self (b : Bus) (v : Word) : (s.setClk b v).clk b = v := by
  cases b <;> rfl

@[simp] theorem State.clk_setClk_ne {b c : Bus} (v : Word) (h : b ≠ c) : (s.setClk b v).clk c = s.clk c := by
  cases b <;> cases c <;> first | rfl | exact absurd rfl h

@[simp] theorem State.clocked_setReg (i : Inst) (r : Reg) (v : Half) (j : Inst) :
    (s.setReg i r v).clocked j = s.clocked j := by simp [State.clocked]

@[simp] theorem State.clocked_advance (j : Inst) : s.advance.clocked j = s.clocked j := by
  unfold State.advance; split <;> rfl

/-! ## Handles -/

@[simp] theorem State.handle_setHandle_self (i : Inst) (h : Handle) : (s.setHandle i h).handle i = h := by
  simp [State.handle, State.setHandle]

theorem State.handle_setHandle_ne {i j : Inst} (x : Handle) (h : i ≠ j) :
    (s.setHandle i x).handle j = s.handle j := by
  have : i.toNat ≠ j.toNat := fun e => h (BitVec.eq_of_toNat_eq e)
  simp [State.handle, State.setHandle, this]

@[simp] theorem State.reg_loadTurns (env : Environment) (j : Inst) (r : Reg) :
    (s.loadTurns env).reg j r = s.reg j r := rfl

/-! ## Contexts -/

@[simp] theorem State.current_setCurrent (c : Context) : (s.setCurrent c).current = c := by
  cases h : s.active <;> simp [State.setCurrent, State.current, h]

end Sys2Proof.Machine
end

