-- ==== Sys2Proof/Laws/Ops.lean ====
section
/-!
SUPPORT. What each shared operation of Machine/Ops.lean can do, said once: register accesses, atomic accesses, command
programs, whole commands. Later proofs cite these instead of unfolding the operations.
-/
namespace Sys2Proof.Machine

open Sys2Proof

variable {s t : State}

/-! ## Register accesses -/

theorem State.rd_of_clocked {i : Inst} (h : s.clocked i = true) (r : Reg) : s.rd i r = .ok (s.reg i r) := by
  simp [State.rd, h]

theorem State.wr_of_clocked {i : Inst} (h : s.clocked i = true) (r : Reg) (v : Half) :
    s.wr i r v = .ok (s.setReg i r (storedValue s.cfg r (s.reg i r) v)) := by
  simp [State.wr, h]

/-- An access to an unclocked instance under the fault policy (R73). -/
theorem State.rd_of_unclocked {i : Inst} (h : s.clocked i = false) (hp : s.cfg.unclockedPolicy = .fault)
    (r : Reg) : s.rd i r = .error (.unclockedAccess i r) := by
  simp [State.rd, h, hp]

theorem State.wr_of_unclocked {i : Inst} (h : s.clocked i = false) (hp : s.cfg.unclockedPolicy = .fault)
    (r : Reg) (v : Half) : s.wr i r v = .error (.unclockedAccess i r) := by
  simp [State.wr, h, hp]

/-- Everything a register read can answer. -/
theorem State.rd_cases {i : Inst} {r : Reg} {v : Half} (h : s.rd i r = .ok v) :
    (s.clocked i = true ∧ v = s.reg i r)
      ∨ (s.clocked i = false ∧ s.cfg.unclockedPolicy = .ignore ∧ v = 0) := by
  unfold State.rd at h
  split at h
  · left; simp_all
  · right; split at h <;> simp_all

/-- Everything a register write can do. -/
theorem State.wr_cases {i : Inst} {r : Reg} {v : Half} (h : s.wr i r v = .ok t) :
    (s.clocked i = true ∧ t = s.setReg i r (storedValue s.cfg r (s.reg i r) v))
      ∨ (s.clocked i = false ∧ s.cfg.unclockedPolicy = .ignore ∧ t = s) := by
  unfold State.wr at h
  split at h
  · left; simp_all
  · right; split at h <;> simp_all

/-! ## Atomic accesses -/

/-- Everything one atomic access can do to the state. -/
theorem perform_cases {a : Access} {v : Word} (h : perform a s = .ok (t, v)) :
    t = s
      ∨ (∃ i r x, t = s.setReg i r (storedValue s.cfg r (s.reg i r) x))
      ∨ (∃ b x, t = s.setClk b x)
      ∨ (∃ b x, t = s.wrISER b x)
      ∨ (∃ b x, t = s.wrICER b x)
      ∨ (∃ n x, t = s.wrIPR n x)
      ∨ (∃ x, t = { s with result := x })
      ∨ (∃ i x, t = s.setHandle i x)
      ∨ (∃ k i, t = { s with trace := s.trace ++ [.callback k i] }) := by
  cases a <;> simp only [perform] at h
  case rd i r => left; split at h <;> simp_all
  case wr i r x =>
    split at h
    · rename_i s' hw
      simp only [Except.ok.injEq, Prod.mk.injEq] at h
      obtain ⟨rfl, -⟩ := h
      rcases State.wr_cases hw with ⟨-, rfl⟩ | ⟨-, -, rfl⟩
      · exact .inr (.inl ⟨i, r, x, rfl⟩)
      · exact .inl rfl
    · cases h
  case rdC b => left; simp_all
  case wrC b x => exact .inr (.inr (.inl ⟨b, x, by simp_all⟩))
  case wrISER b x => exact .inr (.inr (.inr (.inl ⟨b, x, by simp_all⟩)))
  case wrICER b x => exact .inr (.inr (.inr (.inr (.inl ⟨b, x, by simp_all⟩))))
  case rdIPR n => left; simp_all
  case wrIPR n x => exact .inr (.inr (.inr (.inr (.inr (.inl ⟨n, x, by simp_all⟩)))))
  case rdResult i r =>
    split at h
    · rename_i x _
      exact .inr (.inr (.inr (.inr (.inr (.inr (.inl ⟨x.setWidth 32, by simp_all⟩))))))
    · cases h
  case setResult x => exact .inr (.inr (.inr (.inr (.inr (.inr (.inl ⟨x, by simp_all⟩))))))
  case setField i f x =>
    exact .inr (.inr (.inr (.inr (.inr (.inr (.inr (.inl ⟨i, _, by simp only [Except.ok.injEq, Prod.mk.injEq] at h; exact h.1.symm⟩)))))))
  case callback k i =>
    exact .inr (.inr (.inr (.inr (.inr (.inr (.inr (.inr ⟨k, i, by simp_all⟩)))))))

/-- What no atomic access touches: the launch, the contexts, the command index, the pending latches, the fault state. -/
theorem perform_keeps {a : Access} {v : Word} (h : perform a s = .ok (t, v)) :
    t.cfg = s.cfg ∧ t.prog = s.prog ∧ t.schedule = s.schedule ∧ t.pending = s.pending
      ∧ t.active = s.active ∧ t.base = s.base ∧ t.cpc = s.cpc ∧ t.fault = s.fault ∧ t.draws = s.draws := by
  rcases perform_cases h with rfl | ⟨_, _, _, rfl⟩ | ⟨_, _, rfl⟩ | ⟨_, _, rfl⟩ | ⟨_, _, rfl⟩ | ⟨_, _, rfl⟩
    | ⟨_, rfl⟩ | ⟨_, _, rfl⟩ | ⟨_, _, rfl⟩ <;> simp

/-! ## Command programs -/

/-- Every state a run of accesses can end in satisfies `P`. -/
def Run.All (P : State → Prop) : Run → Prop
  | .ok s => P s
  | .fault _ _ s => P s
  | .refused _ => True

/-- A property that every atomic access and every callback program keeps is kept by a command's accesses in a row. -/
theorem runProg_all (P : State → Prop) {onCallback : CallbackRunner} (w : Word)
    (hp : ∀ a s t v, P s → perform a s = .ok (t, v) → P t)
    (hc : ∀ k i s, P s → (onCallback k i s).All P) :
    ∀ (p : Prog) (s : State), P s → (runProg onCallback w p s).All P := by
  intro p
  induction p with
  | done => intro s hs; exact hs
  | act a k ih =>
    intro s hs
    simp only [runProg]
    split
    · exact hs
    · rename_i s' v hperf
      have hs' := hp a s s' v hs hperf
      split
      · rename_i kind i
        have hcb := hc kind i s' hs'
        split
        · rename_i s'' hrun
          rw [hrun] at hcb
          exact ih v s'' hcb
        · exact hcb
      · exact ih v s' hs'

/-- The same for a whole callback program (R221). -/
theorem runWords_all (P : State → Prop)
    (hp : ∀ a s t v, P s → perform a s = .ok (t, v) → P t) :
    ∀ (ws : List Word) (s : State), P s → (runWords ws s).All P := by
  intro ws
  induction ws with
  | nil => intro s hs; exact hs
  | cons w ws ih =>
    intro s hs
    have hone : (runCallbackWord w s).All P := by
      unfold runCallbackWord
      split
      · exact hs
      · split
        · trivial
        · split
          · exact hs
          · exact runProg_all P w hp (fun _ _ _ _ => by unfold noCallback; trivial) _ _ hs
    simp only [runWords]
    split
    · rename_i s' hrun
      rw [hrun] at hone
      exact ih s' hone
    · exact hone

/-! ## Whole commands -/

/-- The callback runner of a command: only the dispatcher invokes callbacks (R221). -/
def callbackRunner (cmd : Instr) : CallbackRunner :=
  if isDispatch cmd then runCallbackProgram else noCallback

/-- Every meaning is one whole command over its checks and its accesses. -/
theorem exec_eq_wholeCommand (cmd : Instr) (s : State) :
    exec cmd s
      = wholeCommand (callbackRunner cmd) cmd (commandStart cmd s) (commandProg cmd s.cfg) s := by
  cases cmd <;> rfl

/-- Everything a whole command can do when it answers a next state. -/
theorem wholeCommand_cases {cb : CallbackRunner} {cmd : Instr} {start : Except FaultCause Snapshot}
    {prog : Snapshot → Prog} (h : wholeCommand cb cmd start prog s = .next t) :
    s.fault = none ∧
      ((∃ c, start = .error c ∧ t = s.raise c (encode cmd))
        ∨ (∃ snap u, start = .ok snap ∧ runProg cb (encode cmd) (prog snap) s = .ok u ∧ t = u.advance)
        ∨ (∃ snap c w u, start = .ok snap ∧ runProg cb (encode cmd) (prog snap) s = .fault c w u
            ∧ t = u.raise c w)) := by
  unfold wholeCommand at h
  split at h
  · cases h
  · rename_i hf
    refine ⟨hf, ?_⟩
    split at h
    · rename_i c
      exact .inl ⟨c, rfl, by simpa using h.symm⟩
    · rename_i snap
      split at h
      · rename_i u hu
        exact .inr (.inl ⟨snap, u, rfl, hu, by simpa using h.symm⟩)
      · rename_i c w u hu
        exact .inr (.inr ⟨snap, c, w, u, rfl, hu, by simpa using h.symm⟩)
      · cases h

/-- A property that every atomic access keeps, and that completion and raising a fault keep, is kept by every command. -/
theorem exec_preserves (P : State → Prop)
    (hp : ∀ a s t v, P s → perform a s = .ok (t, v) → P t)
    (ha : ∀ s, P s → P s.advance) (hr : ∀ s c w, P s → P (s.raise c w))
    {cmd : Instr} (hs : P s) (h : exec cmd s = .next t) : P t := by
  rw [exec_eq_wholeCommand] at h
  have hall : ∀ snap, (runProg (callbackRunner cmd) (encode cmd) (commandProg cmd s.cfg snap) s).All P := by
    intro snap
    refine runProg_all P _ hp ?_ _ _ hs
    intro k i u hu
    unfold callbackRunner
    split
    · exact runWords_all P hp _ _ hu
    · trivial
  obtain ⟨-, ⟨c, -, rfl⟩ | ⟨snap, u, -, hu, rfl⟩ | ⟨snap, c, w, u, -, hu, rfl⟩⟩ := wholeCommand_cases h
  · exact hr _ _ _ hs
  · have := hall snap; rw [hu] at this; exact ha _ this
  · have := hall snap; rw [hu] at this; exact hr _ _ _ this

end Sys2Proof.Machine
end

