-- ==== Sys2Proof/Laws/Agents.lean ====
section
/-!
SUPPORT. What the agents' steps and the machine's step can do, said once (60_exceptions.md R310).
-/
namespace Sys2Proof.Machine

open Sys2Proof

variable {s t : State}

/-- Where a command step of the current context leaves the machine: after the completion of its command, with nothing else
changed, or after at most one atomic access, with a new content of the context. -/
def ContextMove (s t : State) : Prop :=
  t = s.completeCommand ∨ ∃ u, (u = s ∨ ∃ a v, perform a s = .ok (u, v)) ∧ ∃ c, t = u.setCurrent c

theorem callbackCommandDone_move (run : CallbackRun) : ∃ c, s.callbackCommandDone run = s.setCurrent c := by
  unfold State.callbackCommandDone State.leaveCallback
  split <;> exact ⟨_, rfl⟩

theorem commandAccess_cases {f : InFlight} {w : Word} (h : commandAccess f w s = .next t) :
    (∃ c, t = s.raise c w) ∨ ContextMove s t := by
  unfold commandAccess at h
  split at h
  · exact .inr (.inl (by simpa using h.symm))
  · split at h
    · exact .inl ⟨_, by simpa using h.symm⟩
    · rename_i u v hperf
      refine .inr (.inr ⟨u, .inr ⟨_, _, hperf⟩, ?_⟩)
      split at h
      · split at h <;> exact ⟨_, by simpa using h.symm⟩
      · exact ⟨_, by simpa using h.symm⟩

theorem callbackAccess_cases {run : CallbackRun} {f : InFlight} {w : Word}
    (h : callbackAccess run f w s = .next t) : (∃ c, t = s.raise c w) ∨ ContextMove s t := by
  unfold callbackAccess at h
  split at h
  · simp only [Host.Outcome.next.injEq] at h
    subst h
    exact .inr (.inr ⟨s, .inl rfl, callbackCommandDone_move run⟩)
  · split at h
    · exact .inl ⟨_, by simpa using h.symm⟩
    · rename_i u v hperf
      exact .inr (.inr ⟨u, .inr ⟨_, _, hperf⟩, _, by simpa using h.symm⟩)

theorem callbackStep_cases {run : CallbackRun} (h : callbackStep run s = .next t) :
    (∃ c w, t = s.raise c w) ∨ ContextMove s t := by
  unfold callbackStep at h
  split at h
  · exact (callbackAccess_cases h).imp (fun ⟨c, e⟩ => ⟨c, _, e⟩) id
  · split at h
    · simp only [Host.Outcome.next.injEq] at h
      subst h
      exact .inr (.inr ⟨s, .inl rfl, _, rfl⟩)
    · split at h
      · exact .inl ⟨_, _, by simpa using h.symm⟩
      · split at h
        · cases h
        · split at h
          · exact .inl ⟨_, _, by simpa using h.symm⟩
          · exact (callbackAccess_cases h).imp (fun ⟨c, e⟩ => ⟨c, _, e⟩) id

/-- Everything one command step of the current context can do when it answers a next state (R310, R315, R356). -/
theorem contextStep_cases (h : contextStep s = .next t) :
    t = s ∨ (∃ c w, t = s.raise c w) ∨ (∃ f fs, s.active = f :: fs ∧ t = s.returnFromInterrupt)
      ∨ ContextMove s t := by
  unfold contextStep at h
  split at h
  · rcases callbackStep_cases h with e | e
    · exact .inr (.inl e)
    · exact .inr (.inr (.inr e))
  · split at h
    · rcases commandAccess_cases h with ⟨c, e⟩ | e
      · exact .inr (.inl ⟨c, _, e⟩)
      · exact .inr (.inr (.inr e))
    · split at h
      · rename_i f fs hact
        exact .inr (.inr (.inl ⟨f, fs, hact, by simpa using h.symm⟩))
      · split at h
        · exact .inl (by simpa using h.symm)
        · split at h
          · exact .inr (.inl ⟨_, _, by simpa using h.symm⟩)
          · unfold startCommand at h
            split at h
            · exact .inr (.inl ⟨_, _, by simpa using h.symm⟩)
            · rcases commandAccess_cases h with ⟨c, e⟩ | e
              · exact .inr (.inl ⟨c, _, e⟩)
              · exact .inr (.inr (.inr e))

/-- Everything the current context's turn can do when it answers a next state. -/
theorem commandTurn_cases (h : commandTurn s = .next t) :
    contextStep s = .next t ∨ t = s ∨ (∃ c w, t = s.raise c w)
      ∨ ∃ cmd, s.betweenCommands = true ∧ exec cmd s = .next t := by
  unfold commandTurn at h
  split at h
  · rename_i hb
    split at h
    · exact .inr (.inl (by simpa using h.symm))
    · split at h
      · exact .inr (.inr (.inl ⟨_, _, by simpa using h.symm⟩))
      · exact .inr (.inr (.inr ⟨_, hb, h⟩))
  · exact .inl h

/-- A machine step but for the list of turns and the index of the free values: an event, a pending step, an entry, a step of the
current context or a whole base-level command. -/
def TurnMove (u t : State) : Prop :=
  t = u ∨ (∃ i, t = updateEvent i u) ∨ (∃ i c d, t = captureEvent i c d u) ∨ (∃ i, t = pendStep i u)
    ∨ (∃ i, u.nextEntry = some i ∧ t = u.enterInterrupt i)
    ∨ contextStep u = .next t ∨ (∃ c w, t = u.raise c w)
    ∨ ∃ cmd, u.betweenCommands = true ∧ exec cmd u = .next t

theorem commandTurn_move (h : commandTurn s = .next t) : TurnMove s t := by
  rcases commandTurn_cases h with e | e | e | e
  · exact .inr (.inr (.inr (.inr (.inr (.inl e)))))
  · exact .inl e
  · exact .inr (.inr (.inr (.inr (.inr (.inr (.inl e))))))
  · exact .inr (.inr (.inr (.inr (.inr (.inr (.inr e))))))

/-- Everything a named turn can do when it answers a next state. -/
theorem takeTurn_move {tn : Turn} (h : takeTurn tn s = .next t) : TurnMove s t := by
  cases tn <;> simp only [takeTurn, Host.Outcome.next.injEq] at h
  case access => exact .inr (.inr (.inr (.inr (.inr (.inl h)))))
  case command => exact commandTurn_move h
  case update i => exact .inr (.inl ⟨i, h.symm⟩)
  case capture i c d => exact .inr (.inr (.inl ⟨i, c, d, h.symm⟩))
  case pend i => exact .inr (.inr (.inr (.inl ⟨i, h.symm⟩)))
  case enter =>
    unfold enterStep at h
    split at h
    · rename_i i hn
      exact .inr (.inr (.inr (.inr (.inl ⟨i, hn, h.symm⟩))))
    · exact .inl h.symm

/-- Everything the machine does by itself when no turn is named. -/
theorem defaultTurn_move {env : Environment} (h : defaultTurn env s = .next t) :
    TurnMove s t ∨ TurnMove (s.loadTurns env) t := by
  unfold defaultTurn at h
  split at h
  · rename_i i hn
    exact .inl (.inr (.inr (.inr (.inr (.inl ⟨i, hn, by simpa using h.symm⟩)))))
  · split at h
    · exact .inl (commandTurn_move h)
    · exact .inr (.inr (.inr (.inr (.inr (.inr (.inl h))))))

/-- Everything one step of the machine can do when it answers a next state, whatever the environment: a `TurnMove` from the
state with another list of turns and index of the free values. -/
theorem machineStep_cases {env : Environment} (h : machineStep env s = .next t) :
    s.fault = none ∧ paramsLegal s.cfg = true
      ∧ ∃ ts d, TurnMove ({ s with schedule := ts, draws := d } : State) t := by
  unfold machineStep at h
  split at h
  · cases h
  · rename_i hf
    split at h
    · rename_i hl
      refine ⟨hf, hl, ?_⟩
      split at h
      · rcases defaultTurn_move h with e | e
        · exact ⟨s.schedule, s.draws, e⟩
        · exact ⟨_, _, e⟩
      · exact ⟨_, s.draws, takeTurn_move h⟩
    · cases h

end Sys2Proof.Machine
end

