-- ==== Sys2Proof/Laws/Encoding.lean ====
section
/-!
SUPPORT. The fields of the three word formats read back (30_encoding.md R91-R95), and the decoder by rows (R97).
-/
namespace Sys2Proof

/-- Each opcode names its own row. -/
theorem Opcode.ofCode_code (o : Opcode) : Opcode.ofCode o.code = some o := by cases o <;> decide

/-- A row is found only under its own opcode. -/
theorem Opcode.code_of_ofCode {op : BitVec 5} {o : Opcode} (h : Opcode.ofCode op = some o) : o.code = op := by
  have := List.find?_some h
  simpa using this

/-- No two rows of the opcode map overlap: every mask holds the opcode field, and the opcodes differ. -/
theorem Opcode.rows_distinct : (Opcode.all.map Opcode.code).Nodup := by decide

/-- What the decoder answers once the opcode names a row (R97, steps 3 to 5). -/
theorem decode_of_row {w : Word} {o : Opcode} (hop : opField w = o.code) (hm : w &&& o.mask = o.pattern)
    (hw : (o.operands w).wellFormed = true) : decode w = .ok (o.operands w) := by
  simp [decode, hop, Opcode.ofCode_code, hm, hw]

/-- Everything a successful decoding says. -/
theorem decode_ok {w : Word} {i : Instr} (h : decode w = .ok i) :
    ∃ o : Opcode, opField w = o.code ∧ w &&& o.mask = o.pattern ∧ i = o.operands w ∧ i.wellFormed = true := by
  unfold decode at h
  split at h
  · cases h
  · rename_i o ho
    split at h
    · cases h
    · rename_i hm
      split at h
      · rename_i hw
        simp only [Except.ok.injEq] at h
        subst h
        exact ⟨o, (Opcode.code_of_ofCode ho).symm, not_not.mp hm, rfl, hw⟩
      · cases h

section Fields

variable (o : Opcode) (i : Inst) (c : BitVec 3) (r : BitVec 4) (v : Half) (en : BitVec 1) (level : BitVec 8)

@[simp] theorem opField_formatT : opField (formatT o i c v) = o.code := by
  apply BitVec.eq_of_getElem_eq; intro k hk
  simp [opField, formatT, BitVec.getElem_extractLsb']; grind

@[simp] theorem opField_formatR : opField (formatR o i r v) = o.code := by
  apply BitVec.eq_of_getElem_eq; intro k hk
  simp [opField, formatR, BitVec.getElem_extractLsb']; grind

@[simp] theorem opField_formatN : opField (formatN o en level v) = o.code := by
  apply BitVec.eq_of_getElem_eq; intro k hk
  simp [opField, formatN, BitVec.getElem_extractLsb']; grind

@[simp] theorem instField_formatT : instField (formatT o i c v) = i := by
  apply BitVec.eq_of_getElem_eq; intro k hk
  simp [instField, formatT, BitVec.getElem_extractLsb']; grind

@[simp] theorem instField_formatR : instField (formatR o i r v) = i := by
  apply BitVec.eq_of_getElem_eq; intro k hk
  simp [instField, formatR, BitVec.getElem_extractLsb']; grind

@[simp] theorem chField_formatT : chField (formatT o i c v) = c := by
  apply BitVec.eq_of_getElem_eq; intro k hk
  simp [chField, formatT, BitVec.getElem_extractLsb']; grind

@[simp] theorem regField_formatR : regField (formatR o i r v) = r := by
  apply BitVec.eq_of_getElem_eq; intro k hk
  simp [regField, formatR, BitVec.getElem_extractLsb']; grind

@[simp] theorem immField_formatT : immField (formatT o i c v) = v := by
  apply BitVec.eq_of_getElem_eq; intro k hk
  simp [immField, formatT, BitVec.getElem_extractLsb']; grind

@[simp] theorem immField_formatR : immField (formatR o i r v) = v := by
  apply BitVec.eq_of_getElem_eq; intro k hk
  simp [immField, formatR, BitVec.getElem_extractLsb']; grind

@[simp] theorem immField_formatN : immField (formatN o en level v) = v := by
  apply BitVec.eq_of_getElem_eq; intro k hk
  simp [immField, formatN, BitVec.getElem_extractLsb']; grind

@[simp] theorem enField_formatN : enField (formatN o en level v) = en := by
  apply BitVec.eq_of_getElem_eq; intro k hk
  simp [enField, formatN, BitVec.getElem_extractLsb']; grind

@[simp] theorem levelField_formatN : levelField (formatN o en level v) = level := by
  apply BitVec.eq_of_getElem_eq; intro k hk
  simp [levelField, formatN, BitVec.getElem_extractLsb']; grind

end Fields

end Sys2Proof
end

