-- ==== Sys2Proof/Laws/Masks.lean ====
section
/-!
SUPPORT. Values that stay within a mask: what the writes of 20_memory.md R71 and R72 keep, and that masking such a value
changes nothing (10_state.md R40).
-/
namespace Sys2Proof.Machine

open Sys2Proof

section Within

variable {n : Nat} {a b m : BitVec n}

/-- A value has no bit outside a mask exactly when masking it changes nothing. -/
theorem within_iff : a &&& ~~~m = 0#n ↔ a &&& m = a := by
  constructor <;> intro h <;> apply BitVec.eq_of_getLsbD_eq <;> intro k hk <;>
    have hb := congrArg (fun x : BitVec n => x.getLsbD k) h <;>
    simp [hk] at hb ⊢ <;> cases ha : a.getLsbD k <;> cases hm : m.getLsbD k <;> simp_all

theorem within_and_mask : (a &&& m) &&& ~~~m = 0#n := by
  rw [within_iff, BitVec.and_assoc, BitVec.and_self]

theorem within_or (ha : a &&& ~~~m = 0#n) (hb : b &&& ~~~m = 0#n) : (a ||| b) &&& ~~~m = 0#n := by
  rw [within_iff] at *
  apply BitVec.eq_of_getLsbD_eq; intro k hk
  have h1 := congrArg (fun x : BitVec n => x.getLsbD k) ha
  have h2 := congrArg (fun x : BitVec n => x.getLsbD k) hb
  simp [hk] at h1 h2 ⊢
  grind

theorem within_and (ha : a &&& ~~~m = 0#n) : (a &&& b) &&& ~~~m = 0#n := by
  rw [within_iff] at *
  apply BitVec.eq_of_getLsbD_eq; intro k hk
  have h1 := congrArg (fun x : BitVec n => x.getLsbD k) ha
  simp [hk] at h1 ⊢
  grind

/-- Masking a value that is within the mask changes nothing. -/
theorem and_mask_of_within (h : a &&& ~~~m = 0#n) : a &&& m = a := within_iff.mp h

end Within

/-- EPR's write mask is part of its named mask. -/
theorem eprMask_within (p : Params) : p.eprMask &&& ~~~(Reg.namedMask .epr) = 0#16 := by
  unfold Params.eprMask
  cases p.bothEdges1 <;> cases p.bothEdges2 <;> cases p.bothEdges3 <;> cases p.bothEdges4 <;> decide

/-! ## What a write stores, register by register (R31, R71, R72) -/

section Stored

variable (p : Params) (old v : Half)

theorem and_ffff : v &&& 0xFFFF#16 = v := by
  have h : (0xFFFF#16) = BitVec.allOnes 16 := by decide
  rw [h, BitVec.and_allOnes]

@[simp] theorem storedValue_sr : storedValue p .sr old v = srWrite old v := rfl
@[simp] theorem storedValue_cr : storedValue p .cr old v = v &&& 0x0011#16 := rfl
@[simp] theorem storedValue_ier : storedValue p .ier old v = v &&& 0x001F#16 := rfl
@[simp] theorem storedValue_mra : storedValue p .mra old v = v &&& 0xFBFB#16 := rfl
@[simp] theorem storedValue_mrb : storedValue p .mrb old v = v &&& 0xFBFB#16 := rfl
@[simp] theorem storedValue_epr : storedValue p .epr old v = v &&& p.eprMask := rfl
@[simp] theorem storedValue_brk : storedValue p .brk old v = v &&& 0x8000#16 := rfl
@[simp] theorem storedValue_psc : storedValue p .psc old v = v := and_ffff v
@[simp] theorem storedValue_arr : storedValue p .arr old v = v := and_ffff v
@[simp] theorem storedValue_ccr1 : storedValue p .ccr1 old v = v := and_ffff v
@[simp] theorem storedValue_ccr2 : storedValue p .ccr2 old v = v := and_ffff v
@[simp] theorem storedValue_ccr3 : storedValue p .ccr3 old v = v := and_ffff v
@[simp] theorem storedValue_ccr4 : storedValue p .ccr4 old v = v := and_ffff v

/-- A compare/capture register stores every bit (R38). -/
@[simp] theorem storedValue_ccr (c : Channel) : storedValue p c.ccr old v = v := by
  cases c <;> simp [Channel.ccr]

/-- A write of a value within the write mask of a plain register stores it unchanged. -/
theorem storedValue_of_within {r : Reg} (hr : r ≠ .sr) (h : v &&& ~~~(p.writeMask r) = 0#16) :
    storedValue p r old v = v := by
  cases r <;> first | exact absurd rfl hr | exact and_mask_of_within h

/-- Whatever is written, the register stays within its write mask (R40). -/
theorem storedValue_within (r : Reg) : storedValue p r old v &&& ~~~(p.writeMask r) = 0#16 := by
  cases r <;> exact within_and_mask

end Stored

/-! ## The one-bit values commands set lie within the masks -/

theorem bit_within_ier (c : Channel) : (1#16 <<< c.num) &&& ~~~(0x001F#16) = 0#16 := by
  cases c <;> decide

theorem enable_within_epr (p : Params) (c : Channel) :
    (1#16 <<< c.groupShift) &&& ~~~p.eprMask = 0#16 := by
  cases h1 : p.bothEdges1 <;> cases h2 : p.bothEdges2 <;> cases h3 : p.bothEdges3 <;>
    cases h4 : p.bothEdges4 <;> cases c <;> simp [Params.eprMask, h1, h2, h3, h4, Channel.groupShift, Channel.num]

/-! ## The mapper's updates keep the masks -/

theorem pwmMr_within {v : Half} (c : Channel) (m : BitVec 4) (h : v &&& ~~~0xFBFB#16 = 0#16) :
    pwmMr v c m &&& ~~~0xFBFB#16 = 0#16 := by
  apply within_or (within_or (within_and h) _) _
  · cases c <;> simp only [Channel.byteShift] <;> revert m <;> decide
  · cases c <;> decide

theorem icMr_within {v : Half} (c : Channel) (sel : BitVec 2) (f : BitVec 4) (h : v &&& ~~~0xFBFB#16 = 0#16) :
    icMr v c sel f &&& ~~~0xFBFB#16 = 0#16 := by
  apply within_or (within_or (within_and h) _) _
  · cases c <;> simp only [Channel.byteShift] <;> revert sel <;> decide
  · cases c <;> simp only [Channel.byteShift] <;> revert f <;> decide

theorem eprSet_patPwm_within (p : Params) {v : Half} (c : Channel) (m : BitVec 4) (q : OcPolarity)
    (h : v &&& ~~~p.eprMask = 0#16) : eprSet m v c (patPwm q) &&& ~~~p.eprMask = 0#16 := by
  apply within_or (within_and h) _
  cases h1 : p.bothEdges1 <;> cases h2 : p.bothEdges2 <;> cases h3 : p.bothEdges3 <;>
    cases h4 : p.bothEdges4 <;> cases c <;> cases q <;>
    simp [Params.eprMask, h1, h2, h3, h4, Channel.groupShift, Channel.num, patPwm, OcPolarity.code]

/-- Write-0-to-clear on a register without unnamed bits is a plain AND (R72). -/
theorem srWrite_of_within {sr : Half} (h : sr &&& ~~~0x001F#16 = 0#16) (v : Half) : srWrite sr v = sr &&& v := by
  have h' := within_iff.mp h
  apply BitVec.eq_of_getLsbD_eq; intro k hk
  have hb := congrArg (fun x : BitVec 16 => x.getLsbD k) h'
  simp only [srWrite, BitVec.getLsbD_and, BitVec.getLsbD_or] at hb ⊢
  interval_cases k <;> simp_all

/-- Enabling an instance's clock makes it clocked (R42, R110). -/
theorem State.clocked_after_enable (s : State) (i : Inst) :
    (s.setClk (s.cfg.busOf i) (s.clk (s.cfg.busOf i) ||| (1#32 <<< s.cfg.bitOf i))).clocked i = true := by
  have hb : s.cfg.bitOf i < 32 := (s.cfg.clkBit[i.toNat]'i.isLt).isLt
  simp [State.clocked, hb]

/-- Setting a register to a value within its write mask keeps every register within its own (R40). -/
theorem State.namedBits_setReg {s : State} (hs : ∀ i r, s.reg i r &&& ~~~(s.cfg.writeMask r) = 0#16)
    (i : Inst) (r : Reg) {v : Half} (hv : v &&& ~~~(s.cfg.writeMask r) = 0#16) :
    ∀ j q, (s.setReg i r v).reg j q &&& ~~~((s.setReg i r v).cfg.writeMask q) = 0#16 := by
  intro j q
  rw [State.reg_setReg, State.setReg_cfg]
  split
  · rename_i h; obtain ⟨rfl, rfl⟩ := h; exact hv
  · exact hs j q

end Sys2Proof.Machine
end

