-- ==== Sys2Proof/Laws/Frames.lean ====
section
/-!
SUPPORT. Frames by the kind of access a command makes: a property that every access of that kind keeps is kept by the whole
command.
-/
namespace Sys2Proof.Machine

open Sys2Proof

/-- Every access of the program satisfies `A`, whatever is read. -/
def Prog.Only (A : Access → Prop) : Prog → Prop
  | .done => True
  | .act a k => A a ∧ ∀ v, (k v).Only A

@[simp] theorem Prog.only_done {A : Access → Prop} : Prog.done.Only A := trivial

@[simp] theorem Prog.only_rd {A : Access → Prop} {i : Inst} {r : Reg} {k : Half → Prog} :
    (Prog.rd i r k).Only A ↔ A (.rd i r) ∧ ∀ v : Word, (k (v.setWidth 16)).Only A := Iff.rfl

@[simp] theorem Prog.only_rdC {A : Access → Prop} {b : Bus} {k : Word → Prog} :
    (Prog.rdC b k).Only A ↔ A (.rdC b) ∧ ∀ v, (k v).Only A := Iff.rfl

@[simp] theorem Prog.only_rdIPR {A : Access → Prop} {n : Nat} {k : Word → Prog} :
    (Prog.rdIPR n k).Only A ↔ A (.rdIPR n) ∧ ∀ v, (k v).Only A := Iff.rfl

@[simp] theorem Prog.only_wr {A : Access → Prop} {i : Inst} {r : Reg} {v : Half} {k : Prog} :
    (Prog.wr i r v k).Only A ↔ A (.wr i r v) ∧ k.Only A := by
  constructor <;> intro h <;> exact ⟨h.1, by simpa using h.2⟩

@[simp] theorem Prog.only_perform {A : Access → Prop} {a : Access} {k : Prog} :
    (Prog.perform a k).Only A ↔ A a ∧ k.Only A := by
  constructor <;> intro h <;> exact ⟨h.1, by simpa using h.2⟩

/-- A property kept by every access of a kind is kept by a run of accesses of that kind that invokes no callback. -/
theorem runProg_only {A : Access → Prop} {P : State → Prop} (w : Word)
    (hp : ∀ a s t v, A a → P s → perform a s = .ok (t, v) → P t) :
    ∀ (p : Prog) (s : State), p.Only A → P s → (runProg noCallback w p s).All P := by
  intro p
  induction p with
  | done => intro s _ hs; exact hs
  | act a k ih =>
    intro s ha hs
    simp only [runProg]
    split
    · exact hs
    · rename_i u v hperf
      have hu := hp a s u v ha.1 hs hperf
      split
      · trivial
      · exact ih v u (ha.2 v) hu

/-- The same for a whole command other than IRQ_DISPATCH. -/
theorem exec_only {A : Access → Prop} {P : State → Prop} {cmd : Instr} {s t : State}
    (hd : isDispatch cmd = false) (hal : ∀ snap, (commandProg cmd s.cfg snap).Only A)
    (hp : ∀ a s t v, A a → P s → perform a s = .ok (t, v) → P t) (ha : ∀ s, P s → P s.advance)
    (hr : ∀ s c w, P s → P (s.raise c w)) (hs : P s) (h : exec cmd s = .next t) : P t := by
  rw [exec_eq_wholeCommand] at h
  have hall : ∀ snap, (runProg (callbackRunner cmd) (encode cmd) (commandProg cmd s.cfg snap) s).All P := by
    intro snap
    simp only [callbackRunner, hd]
    exact runProg_only _ hp _ _ (hal snap) hs
  obtain ⟨-, ⟨c, -, rfl⟩ | ⟨snap, u, -, hu, rfl⟩ | ⟨snap, c, w, u, -, hu, rfl⟩⟩ := wholeCommand_cases h
  · exact hr _ _ _ hs
  · have := hall snap; rw [hu] at this; exact ha _ this
  · have := hall snap; rw [hu] at this; exact hr _ _ _ this

/-- Reads of timer registers, and writes of the registers `rs` of instance `i`. -/
def timerAccess (i : Inst) (rs : List Reg) : Access → Prop
  | .rd _ _ => True
  | .wr j r _ => j = i ∧ r ∈ rs
  | .rdC _ | .wrC _ _ | .wrISER _ _ | .wrICER _ _ | .rdIPR _ | .wrIPR _ _ => False
  | .rdResult _ _ | .setResult _ | .setField _ _ _ | .callback _ _ => False

/-- One such access changes no timer register but those, and nothing outside the timers. -/
theorem perform_timerAccess {i : Inst} {rs : List Reg} {a : Access} {s u t : State} {v : Word}
    (ha : timerAccess i rs a) (hs : s.sameTimersBut u i rs ∧ s.sameOutsideTimers u)
    (h : perform a u = .ok (t, v)) : s.sameTimersBut t i rs ∧ s.sameOutsideTimers t := by
  cases a <;> simp only [timerAccess] at ha
  case rd j r =>
    simp only [perform] at h
    split at h <;> simp_all
  case wr j r x =>
    obtain ⟨rfl, hr⟩ := ha
    simp only [perform] at h
    split at h
    · rename_i u' hw
      simp only [Except.ok.injEq, Prod.mk.injEq] at h
      obtain ⟨rfl, -⟩ := h
      rcases State.wr_cases hw with ⟨-, rfl⟩ | ⟨-, -, rfl⟩
      · refine ⟨fun k q hq => ?_, by simpa [State.sameOutsideTimers] using hs.2⟩
        rw [State.reg_setReg_ne]
        · exact hs.1 k q hq
        · rcases hq with hq | hq
          · exact .inl hq.symm
          · right; rintro rfl; exact hq hr
      · exact hs
    · cases h

/-- A command whose accesses are of this kind changes no other timer register, and nothing outside the timers but the command
index and the fault state. -/
theorem exec_timer_frame {i : Inst} {rs : List Reg} {cmd : Instr} {s t : State}
    (hd : isDispatch cmd = false) (hal : ∀ snap, (commandProg cmd s.cfg snap).Only (timerAccess i rs))
    (h : exec cmd s = .next t) : s.sameTimersBut t i rs ∧ s.sameOutsideTimers t := by
  refine exec_only hd hal (P := fun t => s.sameTimersBut t i rs ∧ s.sameOutsideTimers t)
    (fun _ _ _ _ ha hs hp => perform_timerAccess ha hs hp) ?_ (fun _ _ _ hu => hu) ?_ h
  · intro u hu
    unfold State.advance
    split <;> exact hu
  · exact ⟨fun _ _ _ => rfl, by simp [State.sameOutsideTimers]⟩

end Sys2Proof.Machine
end

