-- ==== Sys2Proof/Laws/PerInstr.lean ====
section
/-!
SUPPORT. What is proved of every command as syntax, constructor by constructor: the row of the opcode map its word belongs
to (30_encoding.md R96).
-/
namespace Sys2Proof

/-- The row of R96 of each command. -/
def Instr.row : Instr → Opcode
  | .clkEn _ => .clkEn
  | .baseInit _ => .baseInit
  | .baseStart _ => .baseStart
  | .baseStop _ => .baseStop
  | .baseStartIt _ => .baseStartIt
  | .baseStopIt _ => .baseStopIt
  | .pwmInit _ _ => .pwmInit
  | .pwmStart _ _ => .pwmStart
  | .pwmStop _ _ => .pwmStop
  | .pwmSetDuty _ _ _ => .pwmSetDuty
  | .icInit _ _ => .icInit
  | .icStartIt _ _ => .icStartIt
  | .icStopIt _ _ => .icStopIt
  | .icRead _ _ => .icRead
  | .irqDispatch _ => .irqDispatch
  | .nvicSetEn _ _ => .nvicSetEn
  | .nvicSetPrio _ _ => .nvicSetPrio
  | .regRd _ _ => .regRd
  | .regWr _ _ _ => .regWr
  | .hset _ _ _ => .hset

namespace Laws.RowOfEncoding

/-- The opcode field of a command's word is its row's, so the decoder looks it up in its own row. -/
def Statement (i : Instr) : Prop := opField (encode i) = i.row.code ∧ Opcode.ofCode (opField (encode i)) = some i.row

/-- The second half follows from the first. -/
theorem of_field {i : Instr} (h : opField (encode i) = i.row.code) : Statement i :=
  ⟨h, h ▸ Opcode.ofCode_code _⟩

theorem clkEn (i : Inst) : Statement (.clkEn i) :=
  of_field (opField_formatT _ _ _ _)

theorem baseInit (i : Inst) : Statement (.baseInit i) :=
  of_field (opField_formatT _ _ _ _)

theorem baseStart (i : Inst) : Statement (.baseStart i) :=
  of_field (opField_formatT _ _ _ _)

theorem baseStop (i : Inst) : Statement (.baseStop i) :=
  of_field (opField_formatT _ _ _ _)

theorem baseStartIt (i : Inst) : Statement (.baseStartIt i) :=
  of_field (opField_formatT _ _ _ _)

theorem baseStopIt (i : Inst) : Statement (.baseStopIt i) :=
  of_field (opField_formatT _ _ _ _)

theorem pwmInit (i : Inst) (ch : BitVec 3) : Statement (.pwmInit i ch) :=
  of_field (opField_formatT _ _ _ _)

theorem pwmStart (i : Inst) (ch : BitVec 3) : Statement (.pwmStart i ch) :=
  of_field (opField_formatT _ _ _ _)

theorem pwmStop (i : Inst) (ch : BitVec 3) : Statement (.pwmStop i ch) :=
  of_field (opField_formatT _ _ _ _)

theorem pwmSetDuty (i : Inst) (ch : BitVec 3) (v : Half) : Statement (.pwmSetDuty i ch v) :=
  of_field (opField_formatT _ _ _ _)

theorem icInit (i : Inst) (ch : BitVec 3) : Statement (.icInit i ch) :=
  of_field (opField_formatT _ _ _ _)

theorem icStartIt (i : Inst) (ch : BitVec 3) : Statement (.icStartIt i ch) :=
  of_field (opField_formatT _ _ _ _)

theorem icStopIt (i : Inst) (ch : BitVec 3) : Statement (.icStopIt i ch) :=
  of_field (opField_formatT _ _ _ _)

theorem icRead (i : Inst) (ch : BitVec 3) : Statement (.icRead i ch) :=
  of_field (opField_formatT _ _ _ _)

theorem irqDispatch (i : Inst) : Statement (.irqDispatch i) :=
  of_field (opField_formatT _ _ _ _)

theorem nvicSetEn (en : BitVec 1) (line : BitVec 16) : Statement (.nvicSetEn en line) :=
  of_field (opField_formatN _ _ _ _)

theorem nvicSetPrio (level : BitVec 8) (line : BitVec 16) : Statement (.nvicSetPrio level line) :=
  of_field (opField_formatN _ _ _ _)

theorem regRd (i : Inst) (r : BitVec 4) : Statement (.regRd i r) :=
  of_field (opField_formatR _ _ _ _)

theorem regWr (i : Inst) (r : BitVec 4) (v : Half) : Statement (.regWr i r v) :=
  of_field (opField_formatR _ _ _ _)

theorem hset (i : Inst) (r : BitVec 4) (v : Half) : Statement (.hset i r v) :=
  of_field (opField_formatR _ _ _ _)

end Laws.RowOfEncoding

end Sys2Proof
end

