-- ==== Sys2Proof/Tests/Slice0.lean ====
section
/-!
SUPPORT. The model's own tests. Decoding of words written out from the formats of 30_encoding.md; one step of each command
on the vectors of 95_test_vectors.md (the id is in each docstring); the agents' steps; and for every statement of
Certificates/Slice0/Obligations.lean that has hypotheses, a state and operands that meet them (`witness_<Name>`).
-/
namespace Sys2Proof.Tests

open Sys2Proof Sys2Proof.Machine

/-! ## Well-formedness -/

/-- The one check of WellFormed.lean refuses a field id of 10 and of 15. -/
theorem test_wellFormed_refuses_field_ten : (Instr.hset 0 10 0).wellFormed = false := by decide

theorem test_wellFormed_admits_field_nine : (Instr.hset 0 9 0).wellFormed = true := by decide

/-! ## Decoding: OP INST CH Z5 IMM (T), OP INST REG Z4 IMM (R, H), OP EN Z2 LEVEL LINE (N) -/

theorem test_decode_clkEn : decode 0b00001_010_000_00000_0000000000000000 = .ok (.clkEn 2) := by decide
theorem test_decode_baseInit : decode 0b00010_001_000_00000_0000000000000000 = .ok (.baseInit 1) := by decide
theorem test_decode_baseStart : decode 0b00011_011_000_00000_0000000000000000 = .ok (.baseStart 3) := by decide
theorem test_decode_baseStop : decode 0b00100_111_000_00000_0000000000000000 = .ok (.baseStop 7) := by decide
theorem test_decode_baseStartIt : decode 0b00101_100_000_00000_0000000000000000 = .ok (.baseStartIt 4) := by decide
theorem test_decode_baseStopIt : decode 0b00110_010_000_00000_0000000000000000 = .ok (.baseStopIt 2) := by decide
theorem test_decode_pwmInit : decode 0b00111_001_011_00000_0000000000000000 = .ok (.pwmInit 1 3) := by decide
theorem test_decode_pwmStart : decode 0b01000_000_101_00000_0000000000000000 = .ok (.pwmStart 0 5) := by decide
theorem test_decode_pwmStop : decode 0b01001_110_001_00000_0000000000000000 = .ok (.pwmStop 6 1) := by decide
theorem test_decode_pwmSetDuty : decode 0b01010_001_010_00000_0000000111110100 = .ok (.pwmSetDuty 1 2 500) := by decide
theorem test_decode_icInit : decode 0b01011_011_100_00000_0000000000000000 = .ok (.icInit 3 4) := by decide
theorem test_decode_icStartIt : decode 0b01100_001_010_00000_0000000000000000 = .ok (.icStartIt 1 2) := by decide
theorem test_decode_icStopIt : decode 0b01101_010_001_00000_0000000000000000 = .ok (.icStopIt 2 1) := by decide
theorem test_decode_icRead : decode 0b01110_001_110_00000_0000000000000000 = .ok (.icRead 1 6) := by decide
theorem test_decode_irqDispatch : decode 0b01111_010_000_00000_0000000000000000 = .ok (.irqDispatch 2) := by decide
theorem test_decode_nvicSetEn : decode 0b10000_1_00_00000000_0000000000100011 = .ok (.nvicSetEn 1 35) := by decide
theorem test_decode_nvicSetPrio : decode 0b10001_0_00_00000010_0000000000001010 = .ok (.nvicSetPrio 2 10) := by decide
theorem test_decode_regRd : decode 0b10010_001_1100_0000_0000000000000000 = .ok (.regRd 1 12) := by decide
theorem test_decode_regWr : decode 0b10011_001_0010_0000_1111111111111011 = .ok (.regWr 1 2 0xFFFB) := by decide
theorem test_decode_hset : decode 0b10100_001_1001_0000_0000000000000101 = .ok (.hset 1 9 5) := by decide

/-- V-DEC1, V-DEC2, V-DEC3: reserved opcodes. -/
theorem test_decode_reserved :
    decode 0x00000000 = .error .reservedOpcode ∧ decode 0xA8000000 = .error .reservedOpcode
      ∧ decode 0xF8000000 = .error .reservedOpcode := by decide

/-- V-DEC4, V-DEC5, V-DEC6, V-DEC8, V-DEC9, V-DEC10: a fixed-zero field is nonzero. -/
theorem test_decode_fixed_zero :
    decode 0x08200000 = .error .fixedZeroNonzero ∧ decode 0x40610000 = .error .fixedZeroNonzero
      ∧ decode 0x40600001 = .error .fixedZeroNonzero ∧ decode 0x84010019 = .error .fixedZeroNonzero
      ∧ decode 0x8C01000A = .error .fixedZeroNonzero ∧ decode 0x90200001 = .error .fixedZeroNonzero := by decide

/-- V-DEC7: HSET with FLD = 10. -/
theorem test_decode_hset_field_ten : decode 0xA0A00000 = .error .handleFieldOutOfRange := by decide

/-- R78: the first byte is the least significant. -/
theorem test_decodeBytes_little_endian :
    decodeBytes [0xF4, 0x01, 0x40, 0x51, 0x99] = some (.ok (.pwmSetDuty 1 2 500), [0x99]) := by decide

/-- R100, R101: an assembly line and a pseudo-instruction of the spec. -/
theorem test_assembly : (Instr.regWr 0 2 0xFFFD).assembly = some "reg.wr t0, SR, #65533"
    ∧ (Pseudo.srClear 1 .ch2).expand.map encode = [0x9920FFFB] := by decide

/-! ## The commands -/

/-- A value of the next state, if there is one. -/
def onNext {α : Type} (f : State → α) : Host.Outcome State Fault Refusal → Option α
  | .next t => some (f t)
  | .fault _ => none
  | .refused _ => none

/-- Reset with the clocks of the four instances on. -/
def clockedState : State := { State.reset with clkHS := 0x800, clkLS := 7 }

/-- `clockedState` with the complete handle of a PWM user of instance 0 and of instance 1. -/
def fullState : State :=
  (clockedState.setHandle 0 ⟨some 7199, some 9999, some .up, some 6, some 250, some .activeLow, some .falling,
    some .direct, none, some 5⟩).setHandle 1 ⟨some 0, some 0, some .down, some 6, some 5, some .activeHigh, some .bothEdges,
    some .internalTrigger, none, some 15⟩

/-- V-CLK1. -/
theorem test_clkEn : onNext (fun t => (t.clkHS, t.clkLS, t.cpc)) (exec (.clkEn 2) State.reset) = some (0, 2, 1) := by
  decide

/-- V-CLK4: an unrecognised instance. -/
theorem test_clkEn_unrecognised :
    onNext (fun t => (t.clkHS, t.clkLS, t.fault, t.cpc)) (exec (.clkEn 4) State.reset) = some (0, 0, none, 1) := by
  decide

/-- V-BASE1 from an unclocked state. -/
theorem test_baseInit :
    onNext (fun t => (t.clkHS, t.reg 0 .psc, t.reg 0 .arr, t.reg 0 .cr))
      (exec (.baseInit 0) { fullState with clkHS := 0 }) = some (0x800, 0x1C1F, 0x270F, 0) := by
  decide

/-- V-BASE2: CEN is kept, DIR replaced. -/
theorem test_baseInit_keeps_cen :
    onNext (fun t => t.reg 1 .cr) (exec (.baseInit 1) (fullState.setReg 1 .cr 0x0001)) = some 0x0011 := by
  decide

/-- V-BASE4. -/
theorem test_baseStart :
    onNext (fun t => t.reg 0 .cr) (exec (.baseStart 0) (clockedState.setReg 0 .cr 0x0010)) = some 0x0011 := by
  decide

/-- V-BASE9: the fault of an unclocked instance. -/
theorem test_baseStart_unclocked :
    onNext (fun t => (t.fault, t.cpc)) (exec (.baseStart 0) State.reset)
      = some (some ⟨.unclockedAccess 0 .cr, 0x18000000, .base⟩, 0) := by
  decide

/-- V-BASE6. -/
theorem test_baseStop :
    onNext (fun t => t.reg 0 .cr) (exec (.baseStop 0) (clockedState.setReg 0 .cr 0x0011)) = some 0x0010 := by
  decide

/-- V-BASE7. -/
theorem test_baseStartIt :
    onNext (fun t => (t.reg 0 .ier, t.reg 0 .cr)) (exec (.baseStartIt 0) (clockedState.setReg 0 .ier 0x0004))
      = some (0x0005, 0x0001) := by
  decide

/-- V-BASE8: the flag is left. -/
theorem test_baseStopIt :
    onNext (fun t => (t.reg 0 .cr, t.reg 0 .ier, t.reg 0 .sr))
      (exec (.baseStopIt 0) (((clockedState.setReg 0 .ier 0x0005).setReg 0 .cr 0x0001).setReg 0 .sr 0x0001))
      = some (0, 0x0004, 0x0001) := by
  decide

/-- V-A: channel 3 of the advanced instance. -/
theorem test_pwmInit :
    onNext (fun t => (t.reg 0 .mra, t.reg 0 .mrb, t.reg 0 .epr, t.reg 0 .ccr3, t.reg 0 .brk))
      (exec (.pwmInit 0 3) fullState) = some (0, 0x0068, 0x0200, 0x00FA, 0x8000) := by
  decide

/-- V-PWM3: the capture selection is kept. -/
theorem test_pwmInit_keeps_selection :
    onNext (fun t => t.reg 1 .mra) (exec (.pwmInit 1 1) (fullState.setReg 1 .mra 0x0031)) = some 0x0069 := by
  decide

/-- V-PWM6. -/
theorem test_pwmStart :
    onNext (fun t => t.reg 0 .epr) (exec (.pwmStart 0 3) (clockedState.setReg 0 .epr 0x0200)) = some 0x0300 := by
  decide

/-- V-PWM9: channel 0 makes no access, even on an unclocked instance. -/
theorem test_pwmStart_channel_zero :
    onNext (fun t => (t.fault, t.cpc)) (exec (.pwmStart 0 0) State.reset) = some (none, 1) := by
  decide

/-- V-PWM7. -/
theorem test_pwmStop :
    onNext (fun t => t.reg 0 .epr) (exec (.pwmStop 0 3) (clockedState.setReg 0 .epr 0x0300)) = some 0x0200 := by
  decide

/-- V-PWM8. -/
theorem test_pwmSetDuty :
    onNext (fun t => (t.reg 0 .ccr4, t.reg 0 .ccr3)) (exec (.pwmSetDuty 0 4 0) (clockedState.setReg 0 .ccr4 0x1234))
      = some (0, 0) := by
  decide

/-- V-IC1. -/
theorem test_icInit :
    onNext (fun t => (t.reg 0 .mra, t.reg 0 .epr)) (exec (.icInit 0 2) fullState) = some (0x5100, 0x0030) := by
  decide

/-- V-IC4: an NP bit that does not exist is dropped. -/
theorem test_icInit_without_both_edges :
    onNext (fun t => (t.reg 1 .mrb, t.reg 1 .epr))
      (exec (.icInit 1 4) { fullState with cfg := { Params.default with bothEdges4 := false } })
      = some (0xF300, 0x3000) := by
  decide

/-- V-IC6. -/
theorem test_icStartIt :
    onNext (fun t => (t.reg 0 .ier, t.reg 0 .cr)) (exec (.icStartIt 0 1) (clockedState.setReg 0 .ier 0x0001))
      = some (0x0003, 0x0001) := by
  decide

/-- V-IC7: the counter is left running. -/
theorem test_icStopIt :
    onNext (fun t => (t.reg 0 .ier, t.reg 0 .cr))
      (exec (.icStopIt 0 4) ((clockedState.setReg 0 .ier 0x0011).setReg 0 .cr 0x0001)) = some (0x0001, 0x0001) := by
  decide

/-- V-IC8. -/
theorem test_icRead :
    onNext (fun t => t.result) (exec (.icRead 0 1) (clockedState.setReg 0 .ccr1 0x1234)) = some 0x1234 := by
  decide

/-- V-IC9. -/
theorem test_icRead_channel_zero :
    onNext (fun t => t.result) (exec (.icRead 0 0) { clockedState with result := 0x99 }) = some 0x99 := by
  decide

/-- V-E, V-DSP4. -/
theorem test_irqDispatch :
    onNext (fun t => (t.reg 0 .sr, t.trace)) (exec (.irqDispatch 0) (clockedState.setReg 0 .sr 0x0005))
      = some (0x0004, [.callback .periodElapsed 0, .callback .captureEvent 0]) := by
  decide

/-- V-DSP7: a callback program that clears its own flag. -/
theorem test_irqDispatch_callback_program :
    onNext (fun t => (t.reg 0 .sr, t.trace, t.fault))
      (exec (.irqDispatch 0) { clockedState.setReg 0 .sr 0x0004 with
        cfg := { Params.default with onCaptureEvent := #v[[0x9820FFFB], [], [], [], [], [], [], []] } })
      = some (0, [.callback .captureEvent 0], none) := by
  decide

/-- V-NV2. -/
theorem test_nvicSetEn : onNext (fun t => t.enable) (exec (.nvicSetEn 1 95) State.reset) = some [0, 0, 0x80000000] := by
  decide

/-- V-B: disabling leaves the other lines of the bank. -/
theorem test_nvicSetEn_disable :
    onNext (fun t => t.enable) (exec (.nvicSetEn 0 35) { State.reset with enable := [0, 0xC, 0] }) = some [0, 0x4, 0] := by
  decide

/-- V-NV6: bit 32 of the shifted level is dropped. -/
theorem test_nvicSetPrio :
    onNext (fun t => t.prioWord 0) (exec (.nvicSetPrio 0x1F 3) State.reset) = some 0xF0000000 := by
  decide

/-- V-NV9. -/
theorem test_nvicSetPrio_outside :
    onNext (fun t => t.fault) (exec (.nvicSetPrio 1 96) State.reset)
      = some (some ⟨.priorityOutOfRange 96, 0x88010060, .base⟩) := by
  decide

/-- V-H4. -/
theorem test_regRd :
    onNext (fun t => t.result) (exec (.regRd 0 2) (clockedState.setReg 0 .sr 0x0004)) = some 0x0004 := by
  decide

/-- V-H8: BRK on an instance that is not the advanced one. -/
theorem test_regRd_brk :
    onNext (fun t => t.fault) (exec (.regRd 1 12) clockedState)
      = some (some ⟨.noSuchRegister 1 12, 0x91C00000, .base⟩) := by
  decide

/-- V-H5. -/
theorem test_regWr_sr :
    onNext (fun t => t.reg 0 .sr) (exec (.regWr 0 2 0xFFFD) (clockedState.setReg 0 .sr 0x0006)) = some 0x0004 := by
  decide

/-- V-H7. -/
theorem test_regWr_reserved :
    onNext (fun t => t.fault) (exec (.regWr 0 0 2) clockedState)
      = some (some ⟨.reservedBitWrite 0 0 2, 0x98000002, .base⟩) := by
  decide

/-- V-H1. -/
theorem test_hset : onNext (fun t => (t.handle 0).prescaler) (exec (.hset 0 0 7199) State.reset) = some (some 7199) := by
  decide

/-- V-H2. -/
theorem test_hset_illegal_value :
    onNext (fun t => t.fault) (exec (.hset 0 2 2) State.reset)
      = some (some ⟨.badHandleValue 0 2 2, 0xA0200002, .base⟩) := by
  decide

/-! ## The step -/

/-- A word placed after reset is what the next step runs. -/
theorem test_step_runs_placed_word :
    onNext (fun t => (t.clkLS, t.cpc)) (step (State.reset.withFetchWord 32 0x0A000000)) = some (2, 1) := by
  decide

/-- V-DEC1: the all-zero word, executed. -/
theorem test_step_illegal_word :
    onNext (fun t => (t.fault, t.cpc)) (step (State.reset.withFetchWord 32 0))
      = some (some ⟨.illegalCommand 0, 0, .base⟩, 0) := by
  decide

/-- V-EV1: no update event while the counter is stopped. -/
theorem test_update_event_stopped :
    onNext (fun t => t.reg 0 .sr) (step { clockedState with schedule := [.update 0] }) = some 0 := by
  decide

/-- V-EV2: no capture in compare mode. -/
theorem test_compare_event :
    onNext (fun t => (t.reg 0 .sr, t.reg 0 .ccr1))
      (step { (((clockedState.setReg 0 .cr 1).setReg 0 .mra 0x68).setReg 0 .epr 1).setReg 0 .ccr1 5 with
        schedule := [.capture 0 .ch1 9] }) = some (0x0002, 5) := by
  decide

/-- V-IC5: a capture over the duty just set. -/
theorem test_capture_event :
    onNext (fun t => (t.reg 0 .sr, t.reg 0 .ccr2))
      (step { (((clockedState.setReg 0 .cr 1).setReg 0 .mra 0x5100).setReg 0 .epr 0x30).setReg 0 .ccr2 500 with
        schedule := [.capture 0 .ch2 7] }) = some (0x0004, 7) := by
  decide

/-- A line of instance 0 that is pending, with both words that enable it as given. -/
def pendingState (enable : Word) (turns : List Turn) : State :=
  { (clockedState.setReg 0 .ier 1).setReg 0 .sr 1 with
    enable := [enable, 0, 0]
    pending := (List.replicate 96 false).set 25 true
    schedule := turns }

/-- V-EV3: the entry of line 25. -/
theorem test_entry :
    onNext (fun t => (t.isPending 25, t.active.map Frame.line, t.trace)) (step (pendingState 0x02000000 [.enter]))
      = some (false, [25], [.enter 25]) := by
  decide

/-- V-EV4: a pending line that is not enabled is not entered. -/
theorem test_no_entry_of_a_disabled_line :
    onNext (fun t => (t.isPending 25, t.active.length, t.trace)) (step (pendingState 0 [.enter])) = some (true, 0, []) := by
  decide

/-- V-EV5, V-EV6: a line preempts a frame exactly when its priority value is strictly lower. -/
theorem test_preemption :
    onNext (fun t => t.active.map Frame.line)
        (step { pendingState 0x02000000 [.enter] with
          prio := ((List.replicate 24 0).set 6 0x3000).set 7 0x30, active := [⟨28, 1, dispatchContext 1⟩] }) = some [28]
      ∧ onNext (fun t => t.active.map Frame.line)
        (step { pendingState 0x02000000 [.enter] with
          prio := ((List.replicate 24 0).set 6 0x1000).set 7 0x30, active := [⟨28, 1, dispatchContext 1⟩] })
        = some [25, 28] := by
  decide

/-- The end of V-EV3: the frame of a completed dispatcher returns. -/
theorem test_return :
    onNext (fun t => (t.active.length, t.trace))
      (step { clockedState with active := [⟨25, 0, ⟨none, none⟩⟩], schedule := [.access] }) = some (0, [.ret 25]) := by
  decide

/-- V-RACE1: the base level's write of IER loses the write of a frame that came after its read. -/
theorem test_lost_write :
    onNext (fun t => t.reg 0 .ier)
      (step { clockedState.setReg 0 .ier 0x0004 with
        base := ⟨some ⟨.icStartIt 0 1, {}, 1, [0]⟩, none⟩, schedule := [.access] }) = some 0x0002 := by
  decide

/-- V-RACE4: the base level's priority write loses the write of a frame that came after its read. -/
theorem test_lost_priority_write :
    onNext (fun t => t.prioWord 2)
      (step { State.reset with
        prio := (List.replicate 24 0).set 2 0x10200000
        base := ⟨some ⟨.nvicSetPrio 4 10, {}, 1, [0x00200000]⟩, none⟩, schedule := [.access] }) = some 0x00600000 := by
  decide

/-- R10, R84: REG_RD's read, its write of `result` and its completion are three steps (log entries 29, 30). -/
theorem test_regRd_takes_three_steps :
    onNext (fun t => (t.result, t.cpc))
        (accessSteps 1 { clockedState.setReg 0 .sr 4 with prog := [0x90200000], result := 9 }) = some (9, 0)
      ∧ onNext (fun t => (t.result, t.cpc))
        (accessSteps 2 { clockedState.setReg 0 .sr 4 with prog := [0x90200000], result := 9 }) = some (4, 0)
      ∧ onNext (fun t => (t.result, t.cpc))
        (accessSteps 3 { clockedState.setReg 0 .sr 4 with prog := [0x90200000], result := 9 }) = some (4, 1) := by
  decide

/-- R10, R356: an update event may come between BASE_START's last access and its completion, before the first observation point. -/
theorem test_event_before_completion :
    onNext (fun t => (t.reg 0 .sr, t.cpc, t.observable))
        (runSteps (fun _ => []) 3 { clockedState with prog := [0x18000000], schedule := [.access, .access, .update 0, .access] })
      = some (1, 0, false)
      ∧ onNext (fun t => (t.reg 0 .sr, t.cpc, t.observable))
        (runSteps (fun _ => []) 4 { clockedState with prog := [0x18000000], schedule := [.access, .access, .update 0, .access] })
      = some (1, 1, true) := by
  decide

/-- R319: at a depth of 16 no line is entered, however urgent. -/
theorem test_no_entry_at_the_depth_bound :
    onNext (fun t => t.active.length)
      (step { pendingState 0x02000000 [.enter] with
        prio := (List.replicate 24 0).set 7 0xF0, active := List.replicate 16 ⟨28, 1, .idle⟩ }) = some 16
      ∧ onNext (fun t => t.active.length)
      (step { pendingState 0x02000000 [.enter] with
        prio := (List.replicate 24 0).set 7 0xF0, active := List.replicate 15 ⟨28, 1, .idle⟩ }) = some 16 := by
  decide

/-- R362: with the default empty callback, in an environment that latches the line again and again, nine steps serve it once. -/
theorem test_endless_reentry :
    onNext (fun t => (t.isPending 25, t.active.length, t.reg 0 .sr, t.trace))
      (runSteps (fun _ => [.pend 0]) 9 { pendingState 0x02000000 [] with timers := ((clockedState.setReg 0 .ier 2).setReg 0 .sr 2).timers })
      = some (true, 0, 2, [.enter 25, .callback .captureEvent 0, .ret 25]) := by
  decide

/-- R324: in an environment without a pending step a request may stand for ever unlatched. -/
theorem test_request_never_latched :
    onNext (fun t => (t.request 0, t.isPending 25, t.trace))
      (runSteps (fun _ => []) 5 ((clockedState.setReg 0 .ier 2).setReg 0 .sr 2)) = some (true, false, []) := by
  decide

/-! ## Witnesses: for each statement, a state and operands that meet its hypotheses -/

/-- The step or command answers a next state without a fault. -/
def completes (o : Host.Outcome State Fault Refusal) : Bool := onNext (fun t => t.fault.isNone) o == some true

/-- The step or command answers a next state. -/
def answersNext (o : Host.Outcome State Fault Refusal) : Bool := (onNext (fun _ => ()) o).isSome

/-- Reset under the ignore policy of P10 (V-BASE11). -/
def ignoringState : State := State.resetWith { Params.default with unclockedPolicy := .ignore }

/-- Reset under the fault policy of P9 (V-PWM10). -/
def strictState : State := State.resetWith { Params.default with badChannelPolicy := .fault }

/-- A launch in which instance 0's callbacks have programs. -/
def callbackParams : Params :=
  { Params.default with
    onPeriodElapsed := #v[[0x84000019], [], [], [], [], [], [], []]
    onCaptureEvent := #v[[0x9820FFFB], [], [], [], [], [], [], []] }

theorem reset_named : State.reset.namedBitsOnly := by
  intro i r; cases r <;> revert i <;> decide

theorem clockedState_named : clockedState.namedBitsOnly := by
  intro i r; cases r <;> revert i <;> decide

theorem fullState_named : fullState.namedBitsOnly := by
  intro i r; cases r <;> revert i <;> decide

/-- A value of SR within its mask keeps the named bits. -/
theorem clockedState_sr_named (v : Half) (hv : v &&& 0xFFE0#16 = 0#16) : (clockedState.setReg 0 .sr v).namedBitsOnly :=
  State.namedBits_setReg clockedState_named 0 .sr hv

theorem clockedState_ready (i : Inst) (hi : i.toNat < 4) : clockedState.ready i := by
  revert hi; revert i; unfold State.ready; decide

theorem witness_DecodeReadsBackEveryEncoding :
    (Instr.hset 7 9 0xFFFF).wellFormed = true ∧ (Instr.nvicSetPrio 0xFF 0xFFFF).wellFormed = true := by decide

theorem witness_DecodedWordIsTheEncodingOfItsCommand : decode 0xA7900000 = .ok (.hset 7 9 0) := by decide

/-- Instances on both sides of `numInstances`. -/
theorem witness_ClkEnSetsTheInstanceClockBit :
    State.reset.fault = none ∧ State.reset.cfg.hasInst 3 = true ∧ State.reset.cfg.hasInst 4 = false := by decide

/-- The three kinds of instance the timer commands tell apart: unrecognised, recognised and unclocked under either policy,
and ready. -/
theorem witness_instance_clauses :
    (State.reset.fault = none ∧ State.reset.cfg.hasInst 4 = false)
      ∧ (State.reset.cfg.hasInst 3 = true ∧ State.reset.clocked 3 = false
        ∧ State.reset.cfg.unclockedPolicy = .fault)
      ∧ (ignoringState.fault = none ∧ ignoringState.cfg.hasInst 3 = true ∧ ignoringState.clocked 3 = false
        ∧ ignoringState.cfg.unclockedPolicy = .ignore) := by decide

/-- The channel clauses: channels 0 and 5 name none under either policy, 1 and 4 name one. -/
theorem witness_channel_clauses :
    (State.reset.fault = none ∧ State.reset.cfg.hasInst 3 = true ∧ State.reset.cfg.badChannelPolicy = .noop)
      ∧ (strictState.fault = none ∧ strictState.cfg.hasInst 3 = true ∧ strictState.cfg.badChannelPolicy = .fault)
      ∧ Channel.ofRaw 0 = none ∧ Channel.ofRaw 5 = none ∧ Channel.ofRaw 1 = some .ch1
      ∧ Channel.ofRaw 4 = some .ch4 := by decide

theorem witness_BaseInitProgramsClockPrescalerPeriodDirection :
    fullState.fault = none ∧ fullState.cfg.hasInst 0 = true ∧ (fullState.handle 0).prescaler = some 7199
      ∧ (fullState.handle 0).period = some 9999 ∧ (fullState.handle 0).direction = some .up
      ∧ (fullState.handle 2).prescaler = none ∧ fullState.namedBitsOnly :=
  ⟨by decide, by decide, by decide, by decide, by decide, by decide, fullState_named⟩

/-- The clauses of BASE_INIT for a handle with one or two fields written. -/
theorem witness_BaseInit_unwritten_fields :
    ∃ h : Handle, h.prescaler = some 1 ∧ h.period = none ∧ ∃ g : Handle, g.prescaler = some 1 ∧ g.period = some 2
      ∧ g.direction = none ∧ (State.reset.setHandle 0 h).handle 0 = h ∧ (State.reset.setHandle 3 g).handle 3 = g :=
  ⟨{ Handle.unwritten with prescaler := some 1 }, by decide, by decide,
    { Handle.unwritten with prescaler := some 1, period := some 2 }, by decide, by decide, by decide, by decide, by decide⟩

theorem witness_BaseStartSetsCen : clockedState.ready 0 ∧ clockedState.ready 3 ∧ clockedState.namedBitsOnly :=
  ⟨clockedState_ready 0 (by decide), clockedState_ready 3 (by decide), clockedState_named⟩

theorem witness_BaseStopClearsCen : clockedState.ready 0 ∧ clockedState.namedBitsOnly :=
  ⟨clockedState_ready 0 (by decide), clockedState_named⟩

theorem witness_BaseItCommandsSetAndClearUieAndCen : clockedState.ready 3 ∧ clockedState.namedBitsOnly :=
  ⟨clockedState_ready 3 (by decide), clockedState_named⟩

/-- `clockedState` with one command as its program. -/
def oneCommand (w : Word) : State := { clockedState with prog := [w] }

theorem oneCommand_named (w : Word) : (oneCommand w).namedBitsOnly := clockedState_named

theorem witness_UieIsWrittenBeforeCenOnStartAndAfterOnStop :
    (oneCommand 0x28000000).ready 0 ∧ (oneCommand 0x28000000).namedBitsOnly
      ∧ (oneCommand 0x28000000).betweenCommands = true ∧ fetch (oneCommand 0x28000000) = some 0x28000000
      ∧ decode 0x28000000 = .ok (.baseStartIt 0) ∧ fetch (oneCommand 0x30000000) = some 0x30000000
      ∧ decode 0x30000000 = .ok (.baseStopIt 0) :=
  ⟨clockedState_ready 0 (by decide), oneCommand_named _, by decide, by decide, by decide, by decide, by decide⟩

theorem witness_BaseCommandsLeaveEverythingElse :
    completes (exec (.clkEn 3) State.reset) = true ∧ completes (exec (.baseInit 0) fullState) = true
      ∧ completes (exec (.baseStart 0) clockedState) = true ∧ completes (exec (.baseStop 0) clockedState) = true
      ∧ completes (exec (.baseStartIt 3) clockedState) = true
      ∧ completes (exec (.baseStopIt 3) clockedState) = true := by decide

theorem witness_NoWholeCommandClearsAClockBit :
    completes (exec (.clkEn 3) clockedState) = true ∧ clockedState.clocked 2 = true := by decide

theorem witness_MapperTableOfTheFourChannels :
    Channel.ofRaw 1 = some .ch1 ∧ Channel.ofRaw 2 = some .ch2 ∧ Channel.ofRaw 3 = some .ch3
      ∧ Channel.ofRaw 4 = some .ch4 := by decide

/-- Each field of the mode byte at both its ends, for a channel of each half. -/
theorem witness_PwmModeUpdateReplacesModeAndSetsPreload :
    Channel.byteShift .ch1 + 4 ≤ 4 ∧ 7 < Channel.byteShift .ch1 + 8 ∧ 11 = Channel.byteShift .ch4 + 3
      ∧ Channel.byteShift .ch4 + 4 ≤ 12 ∧ 15 < Channel.byteShift .ch4 + 8 ∧ (15 : Nat) < 16 := by decide

theorem witness_CaptureModeUpdateReplacesSelectionAndFilter :
    Channel.byteShift .ch3 ≤ 0 ∧ 1 < Channel.byteShift .ch3 + 2 ∧ Channel.byteShift .ch2 + 4 ≤ 12
      ∧ 15 < Channel.byteShift .ch2 + 8 ∧ (15 : Nat) < 16 := by decide

theorem witness_EnablePolarityUpdateRewritesOneGroup :
    Channel.groupShift .ch1 = 0 ∧ Channel.groupShift .ch4 = 12
      ∧ (0xBBBB#16).getLsbD (Channel.groupShift .ch4 + 2) = false := by decide

theorem witness_PwmInitProgramsTheChannel :
    fullState.fault = none ∧ Channel.ofRaw 4 = some .ch4 ∧ fullState.cfg.hasInst 0 = true
      ∧ (fullState.handle 0).ocMode = some 6 ∧ (fullState.handle 0).pulse = some 250
      ∧ (fullState.handle 0).ocPolarity = some .activeLow ∧ fullState.clocked 0 = true ∧ 0 = fullState.cfg.advancedInst
      ∧ fullState.clocked 1 = true ∧ 1 ≠ fullState.cfg.advancedInst ∧ (fullState.handle 2).ocMode = none
      ∧ fullState.namedBitsOnly :=
  ⟨by decide, by decide, by decide, by decide, by decide, by decide, by decide, by decide, by decide, by decide,
    by decide, fullState_named⟩

/-- The clauses of PWM_INIT for an unclocked instance with a complete handle, under either policy (V-PWM12). -/
theorem witness_PwmInit_unclocked :
    (({ fullState with clkHS := 0 } : State).handle 0).ocPolarity = some .activeLow
      ∧ ({ fullState with clkHS := 0 } : State).clocked 0 = false
      ∧ ({ fullState with clkHS := 0, cfg := ignoringState.cfg } : State).cfg.unclockedPolicy = .ignore := by decide

theorem witness_PwmStartAndStopSwitchTheChannelEnable :
    clockedState.ready 0 ∧ clockedState.namedBitsOnly ∧ Channel.ofRaw 4 = some .ch4 :=
  ⟨clockedState_ready 0 (by decide), clockedState_named, by decide⟩

theorem witness_PwmSetDutyWritesTheCompareRegister : clockedState.ready 3 ∧ Channel.ofRaw 1 = some .ch1 :=
  ⟨clockedState_ready 3 (by decide), by decide⟩

theorem witness_DutyIsReadBackByIcRead : clockedState.ready 1 ∧ ∃ c, Channel.ofRaw 2 = some c :=
  ⟨clockedState_ready 1 (by decide), .ch2, by decide⟩

theorem witness_PwmCommandsLeaveEverythingElse :
    completes (exec (.pwmInit 0 3) fullState) = true ∧ completes (exec (.pwmInit 1 3) fullState) = true
      ∧ 1 ≠ fullState.cfg.advancedInst ∧ completes (exec (.pwmStart 0 3) fullState) = true
      ∧ completes (exec (.pwmStop 0 3) fullState) = true ∧ completes (exec (.pwmSetDuty 0 3 9) fullState) = true
      ∧ Channel.ofRaw 3 = some .ch3 := by decide

theorem witness_IcInitProgramsTheChannel :
    fullState.fault = none ∧ Channel.ofRaw 1 = some .ch1 ∧ fullState.cfg.hasInst 1 = true
      ∧ (fullState.handle 1).icPolarity = some .bothEdges ∧ (fullState.handle 1).icSelection = some .internalTrigger
      ∧ (fullState.handle 1).icFilter = some 15 ∧ fullState.clocked 1 = true ∧ (fullState.handle 2).icPolarity = none
      ∧ fullState.namedBitsOnly :=
  ⟨by decide, by decide, by decide, by decide, by decide, by decide, by decide, by decide, fullState_named⟩

theorem witness_IcItCommandsSwitchTheChannelInterrupt :
    clockedState.ready 0 ∧ clockedState.namedBitsOnly ∧ Channel.ofRaw 1 = some .ch1 ∧ Channel.ofRaw 4 = some .ch4 :=
  ⟨clockedState_ready 0 (by decide), clockedState_named, by decide, by decide⟩

theorem witness_IcReadReturnsTheCaptureRegister : clockedState.ready 0 ∧ Channel.ofRaw 4 = some .ch4 :=
  ⟨clockedState_ready 0 (by decide), by decide⟩

theorem witness_CaptureCommandsLeaveEverythingElse :
    completes (exec (.icInit 1 4) fullState) = true ∧ completes (exec (.icStartIt 1 4) fullState) = true
      ∧ completes (exec (.icStopIt 1 4) fullState) = true ∧ completes (exec (.icRead 1 4) fullState) = true
      ∧ Channel.ofRaw 4 = some .ch4 := by decide

/-- The last line of bank 2 and the first of bank 3. -/
theorem witness_NvicSetEnSwitchesOneEnableBit :
    State.reset.fault = none ∧ (95#16).toNat / 32 ≤ 2 ∧ 2 < (96#16).toNat / 32
      ∧ completes (exec (.nvicSetEn 1 95) State.reset) = true := by decide

/-- The last line with a priority and the first without. -/
theorem witness_NvicSetPrioOrsTheLevelIn :
    State.reset.fault = none ∧ (95#16).toNat / 4 < State.reset.cfg.numPrioSlots
      ∧ State.reset.cfg.numPrioSlots ≤ (96#16).toNat / 4 := by decide

/-- The line written, another line of the table, and the first line outside it. -/
theorem witness_PriorityWritesAreAdditiveAndReachOneLine :
    State.reset.sizesRight ∧ (95#16).toNat / 4 < State.reset.cfg.numPrioSlots ∧ State.reset.fault = none
      ∧ completes (exec (.nvicSetPrio 0xFF 95) State.reset) = true ∧ (94 : Nat) ≠ (95#16).toNat
      ∧ 94 / 4 < State.reset.cfg.numPrioSlots ∧ State.reset.cfg.numPrioSlots ≤ 96 / 4 := by
  refine ⟨?_, by decide⟩
  unfold State.sizesRight; decide

theorem witness_NvicCommandsLeaveEverythingElse :
    completes (exec (.nvicSetEn 1 0) State.reset) = true ∧ completes (exec (.nvicSetPrio 1 0) State.reset) = true := by
  decide

theorem witness_IrqDispatchClearsUifAndRecordsEachCallbackOnce :
    (clockedState.setReg 0 .sr 0x1F).ready 0 ∧ (clockedState.setReg 0 .sr 0x1F).namedBitsOnly
      ∧ ∀ kind, (clockedState.setReg 0 .sr 0x1F).cfg.callbackProgram kind 0 = [] := by
  refine ⟨?_, clockedState_sr_named _ (by decide), fun kind => by cases kind <;> decide⟩
  unfold State.ready; decide

/-- A state in which both callbacks of instance 0 run a program. -/
def dispatchState : State := { clockedState.setReg 0 .sr 0x05 with cfg := callbackParams }

theorem dispatchState_named : dispatchState.namedBitsOnly := by
  intro i r; cases r <;> revert i <;> decide

/-- Both callbacks run to their ends. -/
theorem witness_IrqDispatchRunsItsCallbackProgramsInOrder :
    dispatchState.ready 0 ∧ dispatchState.namedBitsOnly ∧ (dispatchState.reg 0 .sr).getLsbD 0 = true
      ∧ (dispatchState.reg 0 .sr).extractLsb' 1 4 ≠ 0#4
      ∧ ∃ s₁, runWords (dispatchState.cfg.callbackProgram .periodElapsed 0)
          { dispatchState.setReg 0 .sr (dispatchState.reg 0 .sr &&& 0xFFFE#16) with
            trace := dispatchState.trace ++ [.callback .periodElapsed 0] } = .ok s₁
        ∧ ∃ s₂, runWords (dispatchState.cfg.callbackProgram .captureEvent 0)
          { s₁ with trace := s₁.trace ++ [.callback .captureEvent 0] } = .ok s₂ := by
  refine ⟨?_, dispatchState_named, by decide, by decide, _, rfl, _, rfl⟩
  unfold State.ready; decide

/-- A callback program that faults: its one command sets an unnamed bit (V-H7). -/
theorem witness_IrqDispatch_callback_fault :
    ∃ c w u, runWords [0x98000002] dispatchState = .fault c w u := ⟨_, _, _, rfl⟩

/-- Words of a callback program: an illegal one, one that completes and one that faults. -/
theorem witness_IrqDispatch_callback_words :
    dispatchState.fault = none ∧ decode 0xA8000000 = .error .reservedOpcode
      ∧ decode 0x84000019 = .ok (.nvicSetEn 1 25) ∧ isDispatch (.nvicSetEn 1 25) = false
      ∧ completes (exec (.nvicSetEn 1 25) dispatchState) = true
      ∧ decode 0x98000002 = .ok (.regWr 0 0 2) ∧ isDispatch (.regWr 0 0 2) = false
      ∧ completes (exec (.regWr 0 0 2) dispatchState) = false
      ∧ answersNext (exec (.regWr 0 0 2) dispatchState) = true := by decide

theorem witness_HsetWritesLegalValuesAndFaultsOnOthers :
    State.reset.fault = none ∧ State.reset.cfg.hasInst 3 = true ∧ State.reset.cfg.hasInst 4 = false
      ∧ (9#4).toNat < 10 ∧ (15#16).toNat ≤ 15 ∧ (15#16).setWidth 4 ∈ State.reset.cfg.legalOcModes
      ∧ ¬ (16#16).toNat ≤ 15 ∧ (3#16).toNat ≤ 3 ∧ ¬ (4#16).toNat ≤ 3 := by decide

theorem witness_RegisterIndicesThatExist :
    Params.default.regAt 1 11 = some .ccr4 ∧ Params.default.regAt 0 12 = some .brk ∧ Params.default.regAt 1 12 = none
      ∧ Params.default.regAt 0 13 = none := by decide

theorem witness_RegRdReadsTheNamedRegister :
    clockedState.ready 0 ∧ clockedState.cfg.regAt 0 12 = some .brk ∧ clockedState.cfg.regAt 0 13 = none
      ∧ clockedState.cfg.regAt 1 12 = none :=
  ⟨clockedState_ready 0 (by decide), by decide, by decide, by decide⟩

theorem witness_RegWrWritesTheNamedRegister :
    clockedState.ready 0 ∧ clockedState.namedBitsOnly ∧ clockedState.cfg.regAt 0 2 = some .sr
      ∧ clockedState.cfg.regAt 0 0 = some .cr ∧ 0x0011#16 &&& ~~~(Reg.namedMask .cr) = 0#16
      ∧ 0x0002#16 &&& ~~~(Reg.namedMask .cr) ≠ 0#16 ∧ clockedState.cfg.regAt 0 13 = none :=
  ⟨clockedState_ready 0 (by decide), clockedState_named, by decide, by decide, by decide, by decide, by decide⟩

theorem witness_RawCommandsLeaveEverythingElse :
    completes (exec (.regRd 0 12) clockedState) = true ∧ completes (exec (.regWr 0 12 0x8000) clockedState) = true
      ∧ clockedState.cfg.regAt 0 12 = some .brk ∧ completes (exec (.hset 3 9 15) clockedState) = true
      ∧ answersNext (exec (.regWr 0 13 0) clockedState) = true := by decide

theorem witness_OnlyReadsWriteTheResult :
    isDispatch (.baseStart 0) = false ∧ (∀ i ch, Instr.baseStart 0 ≠ .icRead i ch)
      ∧ (∀ i idx, Instr.baseStart 0 ≠ .regRd i idx) ∧ completes (exec (.baseStart 0) clockedState) = true := by
  refine ⟨by decide, ?_, ?_, by decide⟩ <;> intros <;> simp

theorem witness_StepRunsTheDecodedCommand :
    (oneCommand 0x18000000).fault = none ∧ paramsLegal (oneCommand 0x18000000).cfg = true
      ∧ (oneCommand 0x18000000).betweenCommands = true ∧ fetch (oneCommand 0x18000000) = some 0x18000000
      ∧ decode 0x18000000 = .ok (.baseStart 0) ∧ (oneCommand 0x18000000).schedule = []
      ∧ (oneCommand 0x18000000).nextEntry = none
      ∧ ({ oneCommand 0x18000000 with schedule := [.command] } : State).schedule = .command :: [] := by decide

theorem witness_PlacedWordIsRunByTheNextStep :
    paramsLegal State.reset.cfg = true ∧ decode 0x0A000000 = .ok (.clkEn 2)
      ∧ completes (step (State.reset.withFetchWord 32 (0x0A000000#32).toNat)) = true := by decide

theorem witness_IllegalWordFaultsWhenExecuted :
    (oneCommand 0xA0A00000).fault = none ∧ paramsLegal (oneCommand 0xA0A00000).cfg = true
      ∧ (oneCommand 0xA0A00000).betweenCommands = true ∧ fetch (oneCommand 0xA0A00000) = some 0xA0A00000
      ∧ decode 0xA0A00000 = .error .handleFieldOutOfRange := by decide

theorem witness_FaultStopsEveryAgent :
    (State.reset.raise (.illegalCommand 0) 0).fault = some ⟨.illegalCommand 0, 0, .base⟩ := by decide

theorem witness_FaultingCommandHasMadeNoAccess :
    isDispatch (.baseStart 0) = false
      ∧ onNext (fun t => t.fault) (exec (.baseStart 0) State.reset)
        = some (some ⟨.unclockedAccess 0 .cr, 0x18000000, .base⟩) := by decide

theorem witness_WholeCommandIsItsAccessesInOrder :
    (oneCommand 0x28000000).betweenCommands = true ∧ fetch (oneCommand 0x28000000) = some 0x28000000
      ∧ decode 0x28000000 = .ok (.baseStartIt 0) ∧ completes (exec (.baseStartIt 0) (oneCommand 0x28000000)) = true := by
  decide

/-- A frame that interrupt entry has pushed, whose dispatcher runs both callbacks. -/
theorem witness_WholeCommand_in_a_frame :
    ({ dispatchState with active := [⟨25, 0, dispatchContext 0⟩] } : State).active = ⟨25, 0, dispatchContext 0⟩ :: []
      ∧ completes (exec (.irqDispatch 0) { dispatchState with active := [⟨25, 0, dispatchContext 0⟩] }) = true := by decide

/-- `s` with a command of the base level in flight. -/
def inFlight (cmd : Instr) (snap : Snapshot) (index : Nat) (temps : List Word) (s : State) : State :=
  { s with base := ⟨some ⟨cmd, snap, index, temps⟩, none⟩ }

/-- IC_START_IT, NVIC_SET_PRIO (V-RACE4) and CLK_EN after their reads. -/
theorem witness_ReadModifyWriteLosesAWriteBetween :
    Channel.ofRaw 1 = some .ch1 ∧ clockedState.clocked 0 = true
      ∧ (inFlight (.icStartIt 0 1) {} 1 [(4#16).setWidth 32] clockedState).current
        = ⟨some ⟨.icStartIt 0 1, {}, 1, [(4#16).setWidth 32]⟩, none⟩
      ∧ (95#16).toNat / 4 < clockedState.prio.length
      ∧ (inFlight (.nvicSetPrio 4 95) {} 1 [0x00200000] clockedState).current
        = ⟨some ⟨.nvicSetPrio 4 95, {}, 1, [0x00200000]⟩, none⟩
      ∧ clockedState.cfg.hasInst 3 = true
      ∧ (inFlight (.clkEn 3) {} 1 [0] clockedState).current = ⟨some ⟨.clkEn 3, {}, 1, [0]⟩, none⟩ := by decide

/-- BASE_INIT about to start with a complete handle, in flight before its write of PSC, and its next step answered. -/
theorem witness_ReadModifyWrite_snapshot :
    ({ fullState with prog := [0x11000000] } : State).fault = none
      ∧ ({ fullState with prog := [0x11000000] } : State).betweenCommands = true
      ∧ fetch { fullState with prog := [0x11000000] } = some 0x11000000 ∧ decode 0x11000000 = .ok (.baseInit 1)
      ∧ fullState.cfg.hasInst 1 = true ∧ (fullState.handle 1).prescaler = some 0 ∧ (fullState.handle 1).period = some 0
      ∧ (fullState.handle 1).direction = some .down ∧ fullState.clocked 1 = true
      ∧ (inFlight (.baseInit 1) { prescaler := 5 } 2 [1] fullState).current
        = ⟨some ⟨.baseInit 1, { prescaler := 5 }, 2, [1]⟩, none⟩
      ∧ completes (contextStep (inFlight (.baseInit 1) { prescaler := 5 } 2 [1] fullState)) = true := by decide

theorem witness_ReadModifyWrite_not_hset : ∀ i fld v, Instr.baseInit 1 ≠ .hset i fld v := by
  intros; simp

/-- The guards of both hardware events: a counting instance, an unrecognised one, an unclocked one, a stopped one; and a
channel in capture mode and one in compare mode. -/
theorem witness_event_clauses :
    let s := ((clockedState.setReg 0 .cr 1).setReg 0 .mra 0x5102).setReg 0 .epr 0x31
    (s.fault = none ∧ paramsLegal s.cfg = true
        ∧ ({ s with schedule := [.update 0] } : State).schedule = .update 0 :: []
        ∧ ({ s with schedule := [.capture 0 .ch4 0xFFFF] } : State).schedule = .capture 0 .ch4 0xFFFF :: [])
      ∧ (s.cfg.hasInst 0 = true ∧ s.clocked 0 = true ∧ (s.reg 0 .cr).getLsbD 0 = true)
      ∧ s.cfg.hasInst 4 = false ∧ State.reset.clocked 0 = false ∧ (s.reg 1 .cr).getLsbD 0 = false
      ∧ ((s.reg 0 .mra).getLsbD 1 = true ∧ (s.reg 0 .epr).getLsbD 0 = true)
      ∧ ((s.reg 0 .mra).getLsbD 8 = true ∧ (s.reg 0 .epr).getLsbD 4 = true)
      ∧ ((s.reg 0 .mrb).getLsbD 0 = false ∧ (s.reg 0 .mrb).getLsbD 1 = false) := by decide

/-- A requesting instance with a line below 96, and one that requests nothing. -/
theorem witness_PendingStepLatchesARequest :
    let s : State := { (clockedState.setReg 0 .ier 0x11).setReg 0 .sr 0x10 with schedule := [.pend 0] }
    s.fault = none ∧ s.schedule = .pend 0 :: [] ∧ paramsLegal s.cfg = true ∧ s.sizesRight ∧ s.cfg.hasInst 0 = true
      ∧ s.clocked 0 = true ∧ s.cfg.lineOf 0 < 32 * s.cfg.numBanks
      ∧ (∃ n, n < 5 ∧ (s.reg 0 .sr).getLsbD n = true ∧ (s.reg 0 .ier).getLsbD n = true)
      ∧ ∀ n, n < 5 → (s.reg 1 .sr).getLsbD n = false ∨ (s.reg 1 .ier).getLsbD n = false :=
  ⟨by decide, by decide, by decide, by unfold State.sizesRight; decide, by decide, by decide, by decide,
    ⟨4, by decide⟩, by decide⟩

/-- A launch in which instance 0's line, 96, is the first without a latch (log entry 9). -/
theorem witness_PendingStep_line_without_a_latch :
    let p : Params := { Params.default with irqLine := Params.default.irqLine.set 0 96 }
    let s : State := { ((State.resetWith p).setReg 0 .ier 0x11).setReg 0 .sr 0x10 with
      clkHS := 0x800, schedule := [.pend 0] }
    s.fault = none ∧ s.schedule = .pend 0 :: [] ∧ paramsLegal s.cfg = true ∧ s.sizesRight ∧ s.cfg.hasInst 0 = true
      ∧ s.clocked 0 = true ∧ 32 * s.cfg.numBanks ≤ s.cfg.lineOf 0
      ∧ ∃ n, n < 5 ∧ (s.reg 0 .sr).getLsbD n = true ∧ (s.reg 0 .ier).getLsbD n = true :=
  ⟨by decide, by decide, by decide, by unfold State.sizesRight; decide, by decide, by decide, by decide, ⟨4, by decide⟩⟩

theorem witness_EntryPushesADispatcherFrame :
    (pendingState 0x02000000 [.enter]).fault = none ∧ paramsLegal (pendingState 0x02000000 [.enter]).cfg = true
      ∧ (pendingState 0x02000000 [.enter]).schedule = .enter :: []
      ∧ (pendingState 0x02000000 [.enter]).nextEntry = some 0 := by decide

theorem witness_EntryTakesTheMostUrgentEligibleLine :
    (pendingState 0x02000000 []).nextEntry = some 0 ∧ (pendingState 0x02000000 []).eligible 0 = true := by decide

/-- An eligible line at the base level, and a standing request in an environment without a pending step. -/
theorem witness_EligibleLineIsEnteredWhenNoTurnIsNamed :
    (paramsLegal (pendingState 0x02000000 []).cfg = true ∧ (pendingState 0x02000000 []).schedule = []
        ∧ (pendingState 0x02000000 []).eligible 0 = true ∧ (pendingState 0x02000000 []).active.length < 16)
      ∧ (let s : State := (clockedState.setReg 0 .ier 2).setReg 0 .sr 2
        s.fault = none ∧ paramsLegal s.cfg = true ∧ s.schedule = [] ∧ s.nextEntry = none ∧ s.commandWaits = false
          ∧ s.request 0 = true ∧ s.betweenCommands = true ∧ fetch s = none
          ∧ ∀ j, s.cfg.hasInst j = true → s.isPending (s.cfg.lineOf j) = false) := by decide

/-- A line that is not enabled stays pending while a base-level command runs. -/
theorem witness_EligibleLine_no_line_becomes_pending :
    ({ pendingState 0 [] with prog := [0x18000000] } : State).schedule = []
      ∧ onNext (fun t => (t.isPending 25, t.cpc))
        (runSteps (fun _ => []) 3 { pendingState 0 [] with prog := [0x18000000] }) = some (true, 1) := by decide

/-- The state of `test_endless_reentry`: channel 1's flag and enable set, channel 4's not. -/
theorem witness_EligibleLine_endless_reentry :
    let s : State := { pendingState 0x02000000 [] with
      timers := ((clockedState.setReg 0 .ier 2).setReg 0 .sr 2).timers }
    paramsLegal s.cfg = true ∧ s.schedule = [] ∧ s.active = [] ∧ s.eligible 0 = true ∧ s.clocked 0 = true
      ∧ (s.reg 0 .sr).getLsbD 0 = false
      ∧ (∃ k, 1 ≤ k ∧ k ≤ 4 ∧ (s.reg 0 .sr).getLsbD k = true ∧ (s.reg 0 .ier).getLsbD k = true)
      ∧ s.cfg.callbackProgram .captureEvent 0 = []
      ∧ ∀ j, j ≠ 0 → s.cfg.hasInst j = true → s.isPending (s.cfg.lineOf j) = false :=
  ⟨by decide, by decide, by decide, by decide, by decide, by decide, ⟨1, by decide⟩, by decide, by decide⟩

theorem witness_ReturnPopsTheFrameAndRestoresNothing :
    let s : State := { clockedState with active := [⟨25, 0, ⟨none, none⟩⟩], schedule := [.access] }
    s.fault = none ∧ paramsLegal s.cfg = true ∧ s.active = ⟨25, 0, ⟨none, none⟩⟩ :: []
      ∧ s.schedule = .access :: [] := by decide

/-- A state that satisfies the invariant and has an active frame. -/
def frameState : State := { clockedState with active := [⟨25, 0, dispatchContext 0⟩] }

theorem witness_StepKeepsTheInvariant :
    frameState.Inv ∧ completes (step frameState) = true := by
  refine ⟨⟨by decide, clockedState_named, ?_, ?_, ?_, by unfold State.depthBounded; decide⟩, by decide⟩
  · intro n
    simp only [State.prioWord, frameState, clockedState, State.reset, State.resetWith]
    rw [List.getD_eq_getElem?_getD, List.getElem?_replicate]; split <;> rfl
  · unfold State.sizesRight; decide
  · unfold State.framesOwnLines; decide

theorem witness_StepKeepsFramesOnTheirDispatcher :
    frameState.framesDispatch ∧ completes (step frameState) = true := by
  refine ⟨?_, by decide⟩
  intro f hf g hg
  simp only [frameState, List.mem_singleton] at hf
  subst hf
  simp only [dispatchContext, Option.some.injEq] at hg
  subst hg
  rfl

theorem witness_StepNeverChangesTheLaunch : completes (step (oneCommand 0x18000000)) = true := by decide

/-- A step that advances the command index, and one that does not. -/
theorem witness_StepMovesTheCommandIndexByAtMostOne :
    onNext (fun t => t.cpc) (step (oneCommand 0x18000000)) = some 1
      ∧ onNext (fun t => t.cpc) (step frameState) = some 0
      ∧ onNext (fun t => t.cpc) (contextStep { clockedState with base := ⟨some ⟨.baseStart 0, {}, 2, [0]⟩, none⟩ }) = some 1
      ∧ onNext (fun t => t.cpc) (contextStep { clockedState with base := ⟨some ⟨.baseStart 0, {}, 1, [0]⟩, none⟩ }) = some 0 := by
  decide

theorem witness_TraceOnlyGrows :
    onNext (fun t => t.trace) (step (pendingState 0x02000000 [.enter])) = some [.enter 25] := by decide

/-- A launch with an address map of a register of each kind, and one entry that is no register. -/
def mapState : State := { clockedState with
  cfg := { Params.default with
    regAddress := [(16, .iser 2), (20, .icer 0), (24, .clock .hs), (0, .timer 0 .sr), (2, .timer 3 .ccr4), (28, .ipr 23),
      (32, .iser 3)] } }

theorem witness_MemoryAccessIsRefusedOffTheMap :
    (mapState.cfg.regAddress.map Prod.fst).Nodup ∧ 4 ∉ mapState.cfg.regAddress.map Prod.fst
      ∧ (16, .iser 2) ∈ mapState.cfg.regAddress ∧ 2 ≠ RegTarget.bytes (.iser 2) ∧ 2 < mapState.cfg.numBanks
      ∧ (20, .icer 0) ∈ mapState.cfg.regAddress ∧ 0 < mapState.cfg.numBanks
      ∧ (24, .clock .hs) ∈ mapState.cfg.regAddress
      ∧ (0, .timer 0 .sr) ∈ mapState.cfg.regAddress ∧ mapState.cfg.hasInst 0 = true
      ∧ mapState.cfg.regAt 0 (Reg.index .sr) = some .sr ∧ mapState.clocked 0 = true
      ∧ (28, .ipr 23) ∈ mapState.cfg.regAddress ∧ 23 < mapState.cfg.numPrioSlots
      ∧ (32, .iser 3) ∈ mapState.cfg.regAddress ∧ RegTarget.present mapState.cfg (.iser 3) = false := by decide

/-- The clauses of an unclocked instance, under either policy. -/
theorem witness_MemoryAccess_unclocked :
    (2, .timer 3 .ccr4) ∈ mapState.cfg.regAddress ∧ mapState.cfg.hasInst 3 = true
      ∧ mapState.cfg.regAt 3 (Reg.index .ccr4) = some .ccr4
      ∧ ({ mapState with clkLS := 0 } : State).clocked 3 = false ∧ mapState.cfg.unclockedPolicy = .fault
      ∧ ({ mapState.cfg with unclockedPolicy := .ignore } : Params).unclockedPolicy = .ignore := by decide

/-- SR is write-0-to-clear through its address too, and a halfword access of a word register is refused. -/
theorem test_memWrite :
    (match memWrite 0 2 0xFFFD (mapState.setReg 0 .sr 6) with | .ok (.ok t) => some (t.reg 0 .sr) | _ => none) = some 4
      ∧ memRead 16 2 mapState = .error (.noRegisterAt 16 2) := by decide

end Sys2Proof.Tests
end

/-!
PROOF. The obligations of 00_scope.md: the launch is fixed (R7), and a command's completion is a step of its own (R10).
-/
namespace Sys2Proof.Machine

open Sys2Proof

variable {s t : State}

/-! ## What a move keeps -/

@[simp] theorem State.completeCommand_cfg (s : State) : s.completeCommand.cfg = s.cfg := by
  simp [State.completeCommand]

@[simp] theorem State.completeCommand_prog (s : State) : s.completeCommand.prog = s.prog := by
  simp [State.completeCommand]

/-- At the base level a completion empties the slot and advances the command index, and does nothing else (R10, R50). -/
theorem State.completeCommand_of_base (h : s.active = []) :
    s.completeCommand = { s with base := ⟨none, none⟩, cpc := s.cpc + 1 } := by
  simp [State.completeCommand, State.setCurrent, State.advance, Context.idle, h]

/-- A frame's dispatcher has no command index to advance (R50). -/
theorem State.completeCommand_cpc_of_frame (h : s.active ≠ []) : s.completeCommand.cpc = s.cpc := by
  obtain ⟨f, fs, hact⟩ := List.exists_cons_of_ne_nil h
  simp [State.completeCommand, State.setCurrent, State.advance, hact]

theorem ContextMove.launch (h : ContextMove s t) : t.cfg = s.cfg ∧ t.prog = s.prog := by
  obtain rfl | ⟨u, rfl | ⟨a, v, hperf⟩, c, rfl⟩ := h
  · simp
  · simp
  · obtain ⟨hcfg, hprog, -⟩ := perform_keeps hperf
    simp [hcfg, hprog]

theorem contextStep_launch (h : contextStep s = .next t) : t.cfg = s.cfg ∧ t.prog = s.prog := by
  obtain rfl | ⟨c, w, rfl⟩ | ⟨f, fs, -, rfl⟩ | hmove := contextStep_cases h
  · simp
  · simp
  · simp
  · exact hmove.launch

theorem exec_launch {cmd : Instr} (h : exec cmd s = .next t) : t.cfg = s.cfg ∧ t.prog = s.prog := by
  refine exec_preserves (fun u => u.cfg = s.cfg ∧ u.prog = s.prog) ?_ ?_ ?_ ⟨rfl, rfl⟩ h
  · intro a u u' v hu hperf
    obtain ⟨hcfg, hprog, -⟩ := perform_keeps hperf
    rwa [hcfg, hprog]
  · intro u hu
    simpa using hu
  · intro u c w hu
    simpa using hu

/-! ## The events and interrupt entry -/

/-- Everything the update event can do: it sets one register, or nothing happens (R320, R323). -/
theorem updateEvent_cases (i : Inst) (s : State) :
    (∃ v, updateEvent i s = s.setReg i .sr v) ∨ updateEvent i s = s := by
  unfold updateEvent
  split
  · exact .inl ⟨_, rfl⟩
  · exact .inr rfl

/-- Everything the capture/compare event can do: the flag and the captured value, the flag alone, or nothing (R321, R323). -/
theorem captureEvent_cases (i : Inst) (c : Channel) (d : Half) (s : State) :
    (∃ v, captureEvent i c d s = (s.setReg i .sr v).setReg i c.ccr d)
      ∨ (∃ v, captureEvent i c d s = s.setReg i .sr v) ∨ captureEvent i c d s = s := by
  unfold captureEvent
  split
  · dsimp only
    split
    · exact .inl ⟨_, rfl⟩
    · exact .inr (.inl ⟨_, rfl⟩)
  · exact .inr (.inr rfl)

/-- Everything the pending step can do (R312). -/
theorem pendStep_cases (i : Inst) (s : State) :
    pendStep i s = s.setPending (s.cfg.lineOf i) true ∨ pendStep i s = s := by
  unfold pendStep
  split
  · exact .inl rfl
  · exact .inr rfl

theorem updateEvent_keeps (i : Inst) (s : State) :
    (updateEvent i s).cfg = s.cfg ∧ (updateEvent i s).prog = s.prog ∧ (updateEvent i s).cpc = s.cpc := by
  obtain ⟨v, e⟩ | e := updateEvent_cases i s <;> simp [e]

theorem captureEvent_keeps (i : Inst) (c : Channel) (d : Half) (s : State) :
    (captureEvent i c d s).cfg = s.cfg ∧ (captureEvent i c d s).prog = s.prog
      ∧ (captureEvent i c d s).cpc = s.cpc := by
  obtain ⟨v, e⟩ | ⟨v, e⟩ | e := captureEvent_cases i c d s <;> simp [e]

theorem pendStep_keeps (i : Inst) (s : State) :
    (pendStep i s).cfg = s.cfg ∧ (pendStep i s).prog = s.prog ∧ (pendStep i s).cpc = s.cpc := by
  obtain e | e := pendStep_cases i s <;> simp [e]

theorem TurnMove.launch (h : TurnMove s t) : t.cfg = s.cfg ∧ t.prog = s.prog := by
  obtain rfl | ⟨i, rfl⟩ | ⟨i, c, d, rfl⟩ | ⟨i, rfl⟩ | ⟨i, -, rfl⟩ | hctx | ⟨c, w, rfl⟩ | ⟨cmd, -, hexec⟩ := h
  · simp
  · simp [updateEvent_keeps i s]
  · simp [captureEvent_keeps i c d s]
  · simp [pendStep_keeps i s]
  · simp
  · exact contextStep_launch hctx
  · simp
  · exact exec_launch hexec

/-! ## The command index -/

/-- A property that every atomic access keeps is kept by the callback programs a command runs (R221). -/
theorem callbackRunner_all (P : State → Prop) (hp : ∀ a s t v, P s → perform a s = .ok (t, v) → P t)
    (cmd : Instr) (k : CallbackKind) (i : Inst) (hs : P s) : (callbackRunner cmd k i s).All P := by
  unfold callbackRunner
  split
  · exact runWords_all P hp _ _ hs
  · trivial

/-- A whole command ends in one completion or one fault, from a state that its accesses alone have led to. -/
theorem exec_ends_once (P : State → Prop) (hp : ∀ a s t v, P s → perform a s = .ok (t, v) → P t)
    {cmd : Instr} (hs : P s) (h : exec cmd s = .next t) :
    ∃ u, P u ∧ (t = u.advance ∨ ∃ c w, t = u.raise c w) := by
  rw [exec_eq_wholeCommand] at h
  have hall (snap : Snapshot) :
      (runProg (callbackRunner cmd) (encode cmd) (commandProg cmd s.cfg snap) s).All P :=
    runProg_all P _ hp (fun k i _ hu => callbackRunner_all P hp cmd k i hu) _ _ hs
  obtain ⟨-, ⟨c, -, rfl⟩ | ⟨snap, u, -, hu, rfl⟩ | ⟨snap, c, w, u, -, hu, rfl⟩⟩ := wholeCommand_cases h
  · exact ⟨s, hs, .inr ⟨_, _, rfl⟩⟩
  · have hP := hall snap
    rw [hu] at hP
    exact ⟨u, hP, .inl rfl⟩
  · have hP := hall snap
    rw [hu] at hP
    exact ⟨u, hP, .inr ⟨_, _, rfl⟩⟩

/-- A completion advances the command index by one with no frame active, and leaves it under a frame (R50). -/
theorem State.advance_cpc (s : State) :
    s.advance.cpc = s.cpc ∨ (s.advance.cpc = s.cpc + 1 ∧ s.active = []) := by
  unfold State.advance
  split
  · exact .inr ⟨rfl, ‹_›⟩
  · exact .inl rfl

theorem exec_cpc {cmd : Instr} (h : exec cmd s = .next t) :
    t.cpc = s.cpc ∨ (t.cpc = s.cpc + 1 ∧ s.active = []) := by
  have hkeep : ∀ a u u' v, (u.cpc = s.cpc ∧ u.active = s.active) → perform a u = .ok (u', v) →
      u'.cpc = s.cpc ∧ u'.active = s.active := by
    intro a u u' v hu hperf
    obtain ⟨-, -, -, -, hact, -, hcpc, -⟩ := perform_keeps hperf
    rwa [hcpc, hact]
  obtain ⟨u, ⟨hcpc, hact⟩, rfl | ⟨c, w, rfl⟩⟩ :=
    exec_ends_once (fun u => u.cpc = s.cpc ∧ u.active = s.active) hkeep ⟨rfl, rfl⟩ h
  · rw [← hcpc, ← hact]
    exact u.advance_cpc
  · exact .inl hcpc

/-- A single step of the current context that moves the command index is a completion at the base level and nothing else. -/
theorem contextStep_cpc (h : contextStep s = .next t) :
    t.cpc = s.cpc ∨ (s.active = [] ∧ t = { s with base := ⟨none, none⟩, cpc := s.cpc + 1 }) := by
  obtain rfl | ⟨c, w, rfl⟩ | ⟨f, fs, -, rfl⟩ | rfl | ⟨u, rfl | ⟨a, v, hperf⟩, c, rfl⟩ := contextStep_cases h
  · exact .inl rfl
  · exact .inl rfl
  · simp
  · by_cases hact : s.active = []
    · exact .inr ⟨hact, State.completeCommand_of_base hact⟩
    · exact .inl (State.completeCommand_cpc_of_frame hact)
  · simp
  · obtain ⟨-, -, -, -, -, -, hcpc, -⟩ := perform_keeps hperf
    simp [hcpc]

theorem TurnMove.cpc (h : TurnMove s t) : t.cpc = s.cpc ∨ (t.cpc = s.cpc + 1 ∧ s.active = []) := by
  obtain rfl | ⟨i, rfl⟩ | ⟨i, c, d, rfl⟩ | ⟨i, rfl⟩ | ⟨i, -, rfl⟩ | hctx | ⟨c, w, rfl⟩ | ⟨cmd, -, hexec⟩ := h
  · simp
  · simp [updateEvent_keeps i s]
  · simp [captureEvent_keeps i c d s]
  · simp [pendStep_keeps i s]
  · simp
  · obtain e | ⟨hact, rfl⟩ := contextStep_cpc hctx
    · exact .inl e
    · exact .inr ⟨rfl, hact⟩
  · simp
  · exact exec_cpc hexec

/-! ## A command in flight, one access at a time -/

/-- The command in flight `f` has `p` left to run, for whatever further accesses and temporaries. Unlike `f.rest params = p`, this
is carried from one access to the next, because it says that every temporary of `f` has been used. -/
def InFlight.StandsAt (f : InFlight) (params : Params) (p : Prog) : Prop :=
  ∀ m ts, (commandProg f.cmd params f.snap).resume (f.index + m) (f.temps ++ ts) = p.resume m ts

theorem Prog.resume_zero (p : Prog) (ts : List Word) : p.resume 0 ts = p := by
  cases p <;> rfl

theorem Prog.resume_act_of_reads {a : Access} (h : a.reads = true) (k : Word → Prog) (n : Nat) (v : Word)
    (ts : List Word) : (Prog.act a k).resume (n + 1) (v :: ts) = (k v).resume n ts := by
  simp [Prog.resume, h]

theorem Prog.resume_act_of_not_reads {a : Access} (h : a.reads = false) (k : Word → Prog) (n : Nat)
    (ts : List Word) : (Prog.act a k).resume (n + 1) ts = (k 0).resume n ts := by
  cases ts <;> simp [Prog.resume, h]

theorem InFlight.StandsAt.rest_eq {f : InFlight} {params : Params} {p : Prog} (h : f.StandsAt params p) :
    f.rest params = p := by
  simpa [InFlight.rest, Prog.resume_zero] using h 0 []

/-- A command that starts has all its accesses before it. -/
theorem InFlight.standsAt_start (cmd : Instr) (snap : Snapshot) (params : Params) :
    InFlight.StandsAt ⟨cmd, snap, 0, []⟩ params (commandProg cmd params snap) := by
  intro m ts
  simp

/-- After an access the command stands at what follows the value it read (R51). -/
theorem InFlight.StandsAt.after {f : InFlight} {params : Params} {a : Access} {k : Word → Prog}
    (h : f.StandsAt params (.act a k)) (v : Word) :
    (f.after a v).StandsAt params (k (if a.reads then v else 0)) := by
  intro m ts
  have hindex : f.index + 1 + m = f.index + (m + 1) := by omega
  cases ha : a.reads
  · simpa [InFlight.after, ha, hindex, Prog.resume_act_of_not_reads ha] using h (m + 1) ts
  · simpa [InFlight.after, ha, hindex, Prog.resume_act_of_reads ha] using h (m + 1) (v :: ts)

/-- The state with the command `f` in flight at the base level. -/
def State.inFlight (s : State) (f : InFlight) : State := { s with base := ⟨some f, none⟩ }

theorem State.setCurrent_of_base (f : InFlight) (h : s.active = []) :
    s.setCurrent ⟨some f, none⟩ = s.inFlight f := by
  simp [State.setCurrent, State.inFlight, h]

@[simp] theorem State.inFlight_inFlight (f g : InFlight) : (s.inFlight f).inFlight g = s.inFlight g := rfl

@[simp] theorem State.inFlight_cfg (f : InFlight) : (s.inFlight f).cfg = s.cfg := rfl

@[simp] theorem State.setReg_inFlight (f : InFlight) (i : Inst) (r : Reg) (v : Half) :
    (s.inFlight f).setReg i r v = (s.setReg i r v).inFlight f := rfl

@[simp] theorem State.reg_inFlight (f : InFlight) (i : Inst) (r : Reg) :
    (s.inFlight f).reg i r = s.reg i r := rfl

@[simp] theorem State.clocked_inFlight (f : InFlight) (i : Inst) :
    (s.inFlight f).clocked i = s.clocked i := rfl

/-- The base level goes on with its command in flight. -/
theorem contextStep_inFlight (f : InFlight) (h : s.active = []) :
    contextStep (s.inFlight f) = commandAccess f (encode f.cmd) (s.inFlight f) := by
  simp [contextStep, State.inFlight, State.current, h]

theorem State.active_of_betweenCommands (h : s.betweenCommands = true) : s.active = [] := by
  simp_all [State.betweenCommands]

/-- Between two commands the base level starts the next one, in the step of its first access (R51). -/
theorem contextStep_start {w : Word} {cmd : Instr} {snap : Snapshot} (hb : s.betweenCommands = true)
    (hf : fetch s = some w) (hd : decode w = .ok cmd) (hs : commandStart cmd s = .ok snap) :
    contextStep s = commandAccess ⟨cmd, snap, 0, []⟩ w s := by
  simp only [State.betweenCommands, Bool.and_eq_true, List.isEmpty_iff, Option.isNone_iff_eq_none] at hb
  obtain ⟨⟨hact, hslot⟩, hcb⟩ := hb
  simp [contextStep, State.current, startCommand, hact, hslot, hcb, hf, hd, hs]

/-- The read step of a clocked timer register at the base level. -/
theorem commandAccess_rd {f : InFlight} {w : Word} {i : Inst} {r : Reg} {k : Half → Prog}
    (hact : s.active = []) (hclk : s.clocked i = true) (hf : f.StandsAt s.cfg (.rd i r k)) :
    ∃ f', f'.StandsAt s.cfg (k (s.reg i r)) ∧ commandAccess f w s = .next (s.inFlight f') := by
  refine ⟨f.after (.rd i r) ((s.reg i r).setWidth 32), ?_, ?_⟩
  · simpa [Access.reads] using InFlight.StandsAt.after hf ((s.reg i r).setWidth 32)
  · simp [commandAccess, hf.rest_eq, Prog.rd, perform, State.rd_of_clocked hclk, State.setCurrent_of_base _ hact]

/-- The write step of a clocked timer register at the base level. -/
theorem commandAccess_wr {f : InFlight} {w : Word} {i : Inst} {r : Reg} {v : Half} {k : Prog}
    (hact : s.active = []) (hclk : s.clocked i = true) (hf : f.StandsAt s.cfg (.wr i r v k)) :
    ∃ f', f'.StandsAt s.cfg k
      ∧ commandAccess f w s = .next ((s.setReg i r (storedValue s.cfg r (s.reg i r) v)).inFlight f') := by
  refine ⟨f.after (.wr i r v) 0, InFlight.StandsAt.after hf 0, ?_⟩
  have hact' (x : Half) : (s.setReg i r x).active = [] := hact
  simp [commandAccess, hf.rest_eq, Prog.wr, perform, State.wr_of_clocked hclk,
    State.setCurrent_of_base _ (hact' _)]

theorem accessSteps_succ (h : contextStep s = .next t) (n : Nat) :
    accessSteps (n + 1) s = accessSteps n t := by
  simp [accessSteps, h]

/-- A read-modify-write of a timer register is two access steps, after which the command stands at what follows it. -/
theorem accessSteps_readModifyWrite {f : InFlight} {w : Word} {i : Inst} {r : Reg} {g : Half → Half} {k : Prog}
    (hstep : contextStep s = commandAccess f w s) (hact : s.active = []) (hclk : s.clocked i = true)
    (hf : f.StandsAt s.cfg (.rd i r fun x => .wr i r (g x) k))
    (hstored : storedValue s.cfg r (s.reg i r) (g (s.reg i r)) = g (s.reg i r)) :
    ∃ f', f'.StandsAt s.cfg k
      ∧ ∀ n, accessSteps (n + 2) s = accessSteps n ((s.setReg i r (g (s.reg i r))).inFlight f') := by
  obtain ⟨f₁, hf₁, hread⟩ := commandAccess_rd (w := w) hact hclk hf
  obtain ⟨f₂, hf₂, hwrite⟩ :=
    commandAccess_wr (s := s.inFlight f₁) (w := encode f₁.cmd) hact hclk hf₁
  have hsecond : contextStep (s.inFlight f₁) = .next ((s.setReg i r (g (s.reg i r))).inFlight f₂) := by
    rw [contextStep_inFlight f₁ hact, hwrite]
    simp [hstored]
  refine ⟨f₂, hf₂, fun n => ?_⟩
  rw [accessSteps_succ (hstep.trans hread), accessSteps_succ hsecond]

/-- The completion of a base-level command whose accesses are done is one step, and changes nothing else (R10). -/
theorem contextStep_complete {f : InFlight} (hact : s.active = []) (hf : f.StandsAt s.cfg .done) :
    contextStep (s.inFlight f) = .next { s with base := ⟨none, none⟩, cpc := s.cpc + 1 } := by
  have hrest : f.rest (s.inFlight f).cfg = .done := hf.rest_eq
  have hact' : (s.inFlight f).active = [] := hact
  rw [contextStep_inFlight f hact, commandAccess, hrest, State.completeCommand_of_base hact']
  rfl

/-- A command of two read-modify-writes: after two steps only the first register has its new value, after four both have it and
the command is still in flight, and the fifth step is its completion. -/
theorem twoReadModifyWrites_in_order {w : Word} {cmd : Instr} {snap : Snapshot} {i : Inst} {r q : Reg}
    {g h : Half → Half} (hclk : s.clocked i = true) (hb : s.betweenCommands = true)
    (hf : fetch s = some w) (hd : decode w = .ok cmd) (hs : commandStart cmd s = .ok snap)
    (hprog : commandProg cmd s.cfg snap
      = .rd i r fun x => .wr i r (g x) <| .rd i q fun y => .wr i q (h y) .done)
    (hrq : r ≠ q) (hr : storedValue s.cfg r (s.reg i r) (g (s.reg i r)) = g (s.reg i r))
    (hq : storedValue s.cfg q (s.reg i q) (h (s.reg i q)) = h (s.reg i q)) :
    ∃ t u, accessSteps 2 s = .next t ∧ t.reg i r = g (s.reg i r) ∧ t.reg i q = s.reg i q ∧ t.cpc = s.cpc
      ∧ accessSteps 4 s = .next u ∧ u.reg i r = g (s.reg i r) ∧ u.reg i q = h (s.reg i q) ∧ u.cpc = s.cpc
      ∧ u.base.slot ≠ none
      ∧ accessSteps 5 s = .next { u with base := ⟨none, none⟩, cpc := s.cpc + 1 } := by
  have hact := State.active_of_betweenCommands hb
  have hstart := InFlight.standsAt_start cmd snap s.cfg
  rw [hprog] at hstart
  obtain ⟨f₁, hf₁, hfirst⟩ :=
    accessSteps_readModifyWrite (contextStep_start hb hf hd hs) hact hclk hstart hr
  let s₁ := s.setReg i r (g (s.reg i r))
  have hkeep : s₁.reg i q = s.reg i q := s.reg_setReg_ne _ (.inr hrq)
  obtain ⟨f₂, hf₂, hsecond⟩ :=
    accessSteps_readModifyWrite (s := s₁.inFlight f₁) (contextStep_inFlight f₁ hact) hact
      (by simp [s₁, hclk]) hf₁ (by rw [State.reg_inFlight, hkeep]; exact hq)
  let s₂ := s₁.setReg i q (h (s.reg i q))
  have hfour (n : Nat) : accessSteps (n + 4) s = accessSteps n (s₂.inFlight f₂) := by
    rw [hfirst (n + 2), hsecond n]
    simp [s₂, hkeep]
  refine ⟨s₁.inFlight f₁, s₂.inFlight f₂, hfirst 0, ?_, hkeep, rfl, hfour 0, ?_, ?_, rfl, ?_, ?_⟩
  · exact s.reg_setReg_self i r _
  · exact (s₁.reg_setReg_ne _ (.inr hrq.symm)).trans (s.reg_setReg_self i r _)
  · exact s₁.reg_setReg_self i q _
  · simp [State.inFlight]
  · rw [hfour 1, accessSteps_succ (contextStep_complete (s := s₂) hact hf₂)]
    rfl

/-- A recognised index passes the check of R120. -/
theorem startInst_of_hasInst {i : Inst} (h : s.cfg.hasInst i = true) (cmd : Instr) :
    startInst cmd i s = .ok {} := by
  simp [startInst, checkInst, h]

end Sys2Proof.Machine

namespace Sys2Proof.Proofs

open Sys2Proof Sys2Proof.Machine

/-- Settles O56: every turn keeps the parameters and the program. -/
theorem stepNeverChangesTheLaunch : Obligations.StepNeverChangesTheLaunch := by
  intro s t h
  obtain ⟨-, -, ts, d, hmove⟩ := machineStep_cases h
  exact hmove.launch

/-- Settles O57: the completion of a base-level command is the only move of the command index. -/
theorem stepMovesTheCommandIndexByAtMostOne : Obligations.StepMovesTheCommandIndexByAtMostOne := by
  refine ⟨fun s t h => ?_, fun s t => contextStep_cpc⟩
  obtain ⟨-, -, ts, d, hmove⟩ := machineStep_cases h
  exact hmove.cpc

/-- Settles O10: both commands are two read-modify-writes, of IER and CR in the one order and in the other. -/
theorem uieIsWrittenBeforeCenOnStartAndAfterOnStop :
    Obligations.UieIsWrittenBeforeCenOnStartAndAfterOnStop := by
  intro i s w hready hnamed hb hf
  obtain ⟨-, hinst, hclk⟩ := hready
  have hset (r : Reg) (hr : r ≠ .sr) (hbit : 0x0001#16 &&& ~~~(s.cfg.writeMask r) = 0#16) :
      storedValue s.cfg r (s.reg i r) (s.reg i r ||| 0x0001#16) = s.reg i r ||| 0x0001#16 :=
    storedValue_of_within _ _ _ hr (within_or (hnamed i r) hbit)
  have hclear (r : Reg) (hr : r ≠ .sr) :
      storedValue s.cfg r (s.reg i r) (s.reg i r &&& ~~~0x0001#16) = s.reg i r &&& ~~~0x0001#16 :=
    storedValue_of_within _ _ _ hr (within_and (hnamed i r))
  refine ⟨fun hd => ?_, fun hd => ?_⟩
  · exact twoReadModifyWrites_in_order (g := (· ||| 0x0001#16)) (h := (· ||| 0x0001#16)) hclk hb hf hd
      (startInst_of_hasInst hinst _) rfl (by decide)
      (hset .ier (by decide) (show 0x0001#16 &&& ~~~(Reg.namedMask .ier) = 0#16 by decide))
      (hset .cr (by decide) (show 0x0001#16 &&& ~~~(Reg.namedMask .cr) = 0#16 by decide))
  · exact twoReadModifyWrites_in_order (g := (· &&& ~~~0x0001#16)) (h := (· &&& ~~~0x0001#16)) hclk hb hf hd
      (startInst_of_hasInst hinst _) rfl (by decide) (hclear .cr (by decide)) (hclear .ier (by decide))

end Sys2Proof.Proofs

/-!
PROOF. The invariants of 10_state.md: what every step keeps (R40, R43, R44, R314, R319), the growing trace (R54), and the state
after reset (R55).
-/
namespace Sys2Proof.Machine

open Sys2Proof

variable {s t : State}

/-! ## The line interrupt entry selects -/

/-- The better of two candidates is one of them, and a candidate is eligible (R313, R317). -/
theorem State.better_eligible {best : Option Inst} (hbest : ∀ j, best = some j → s.eligible j = true)
    (i : Inst) : ∀ j, s.better best i = some j → s.eligible j = true := by
  intro j hj
  by_cases hi : s.eligible i = true
  · cases best with
    | none => simp_all [State.better]
    | some k =>
      simp only [State.better, hi, if_true] at hj
      split at hj <;> simp_all
  · simp_all [State.better]

theorem State.foldl_better_eligible (is : List Inst) :
    ∀ best : Option Inst, (∀ j, best = some j → s.eligible j = true) →
      ∀ j, is.foldl s.better best = some j → s.eligible j = true := by
  induction is with
  | nil => exact fun _ hbest => hbest
  | cons i is ih => exact fun _ hbest => ih _ (State.better_eligible hbest i)

/-- Interrupt entry takes an eligible line, below the depth of R319. -/
theorem State.eligible_of_nextEntry {i : Inst} (h : s.nextEntry = some i) :
    s.active.length < maxDepth ∧ s.eligible i = true := by
  unfold State.nextEntry at h
  split at h
  · exact ⟨‹_›, State.foldl_better_eligible _ none (by simp) i h⟩
  · cases h

theorem State.hasInst_of_eligible {i : Inst} (h : s.eligible i = true) : s.cfg.hasInst i = true := by
  simp_all [State.eligible]

theorem State.isPending_of_eligible {i : Inst} (h : s.eligible i = true) :
    s.isPending (s.cfg.lineOf i) = true := by
  simp_all [State.eligible]

/-! ## The invariant, one operation at a time -/

/-- What of a frame the invariant speaks of: its line and its timer's index, not its context. -/
def Frame.owner (f : Frame) : Nat × Inst := (f.line, f.inst)

/-- The invariant's clause on frames, said of their owners alone. -/
theorem State.framesOwnLines_iff :
    s.framesOwnLines ↔
      ∀ o ∈ s.active.map Frame.owner, s.cfg.hasInst o.2 = true ∧ o.1 = s.cfg.lineOf o.2 := by
  simp [State.framesOwnLines, Frame.owner]

/-- The invariant looks at the parameters, the timers, the priority words, the sizes of the other tables, and the frames' owners. -/
theorem State.Inv.congr (hs : s.Inv) (hcfg : t.cfg = s.cfg) (htimers : t.timers = s.timers)
    (henable : t.enable.length = s.enable.length) (hprio : t.prio = s.prio)
    (hpending : t.pending.length = s.pending.length)
    (howner : t.active.map Frame.owner = s.active.map Frame.owner) : t.Inv := by
  obtain ⟨hlegal, hnamed, hnibble, ⟨hsize₁, hsize₂, hsize₃⟩, hframes, hdepth⟩ := hs
  have hlength : t.active.length = s.active.length := by simpa using congrArg List.length howner
  refine ⟨by rwa [hcfg], ?_, ?_, ?_, ?_, ?_⟩
  · intro i r
    rw [State.reg_congr htimers, hcfg]
    exact hnamed i r
  · intro n
    simpa [State.prioWord, hprio] using hnibble n
  · exact ⟨by rw [henable, hcfg, hsize₁], by rw [hprio, hcfg, hsize₂], by rw [hpending, hcfg, hsize₃]⟩
  · rw [State.framesOwnLines_iff] at hframes ⊢
    rwa [howner, hcfg]
  · rwa [State.depthBounded, hlength]

theorem State.Inv.namedBitsOnly (hs : s.Inv) : s.namedBitsOnly := by
  obtain ⟨-, hnamed, -⟩ := hs
  exact hnamed

theorem State.Inv.setReg (hs : s.Inv) (i : Inst) (r : Reg) {v : Half}
    (hv : v &&& ~~~(s.cfg.writeMask r) = 0#16) : (s.setReg i r v).Inv := by
  obtain ⟨hlegal, hnamed, hrest⟩ := hs
  exact ⟨hlegal, State.namedBits_setReg hnamed i r hv, hrest⟩

/-- A priority write keeps the low nibbles 0 (R77). -/
theorem State.lowNibblesZero_wrIPR (hs : s.lowNibblesZero) (n : Nat) (v : Word) :
    (s.wrIPR n v).lowNibblesZero := by
  intro m
  have hstored : (v &&& 0xF0F0F0F0#32) &&& 0x0F0F0F0F#32 = 0#32 := by
    rw [BitVec.and_assoc]
    simp
  have hread : (s.wrIPR n v).prioWord m = s.prioWord m ∨ (s.wrIPR n v).prioWord m = v &&& 0xF0F0F0F0#32 := by
    simp only [State.prioWord, State.wrIPR, List.getD_eq_getElem?_getD, List.getElem?_set]
    split
    · split
      · exact .inr rfl
      · exact .inl (by simp_all)
    · exact .inl rfl
  obtain e | e := hread
  · rw [e]; exact hs m
  · rw [e]; exact hstored

theorem State.Inv.wrIPR (hs : s.Inv) (n : Nat) (v : Word) : (s.wrIPR n v).Inv := by
  obtain ⟨hlegal, hnamed, hnibble, ⟨hsize₁, hsize₂, hsize₃⟩, hrest⟩ := hs
  exact ⟨hlegal, hnamed, State.lowNibblesZero_wrIPR hnibble n v, ⟨hsize₁, by simpa [State.wrIPR] using hsize₂, hsize₃⟩,
    hrest⟩

/-- Replacing the content of the current context leaves every frame with its owner. -/
@[simp] theorem State.setCurrent_owners (c : Context) :
    (s.setCurrent c).active.map Frame.owner = s.active.map Frame.owner := by
  cases h : s.active <;> simp [State.setCurrent, h, Frame.owner]

theorem State.Inv.setCurrent (hs : s.Inv) (c : Context) : (s.setCurrent c).Inv :=
  hs.congr (by simp) (by simp) (by simp) (by simp) (by simp) (by simp)

theorem State.Inv.advance (hs : s.Inv) : s.advance.Inv :=
  hs.congr (by simp) (by simp) (by simp) (by simp) (by simp) (by simp)

theorem State.Inv.raise (hs : s.Inv) (c : FaultCause) (w : Word) : (s.raise c w).Inv := hs

theorem State.Inv.completeCommand (hs : s.Inv) : s.completeCommand.Inv :=
  (hs.setCurrent _).advance

/-- A return takes a frame away and adds none (R315). -/
theorem State.Inv.returnFromInterrupt (hs : s.Inv) : s.returnFromInterrupt.Inv := by
  unfold State.returnFromInterrupt
  split
  · exact hs
  · rename_i f fs hact
    obtain ⟨hlegal, hnamed, hnibble, hsize, hframes, hdepth⟩ := hs
    refine ⟨hlegal, hnamed, hnibble, hsize, fun g hg => hframes g ?_, ?_⟩
    · rw [hact]
      exact List.mem_cons_of_mem f hg
    · simp only [State.depthBounded, hact, List.length_cons] at hdepth ⊢
      omega

/-- An entry adds the frame of an eligible line, below the depth of R319 (R314). -/
theorem State.Inv.enterInterrupt (hs : s.Inv) {i : Inst} (hi : s.nextEntry = some i) :
    (s.enterInterrupt i).Inv := by
  obtain ⟨hlegal, hnamed, hnibble, ⟨hsize₁, hsize₂, hsize₃⟩, hframes, hdepth⟩ := hs
  obtain ⟨hroom, helig⟩ := State.eligible_of_nextEntry hi
  have hinst : s.cfg.hasInst i = true := State.hasInst_of_eligible helig
  refine ⟨hlegal, hnamed, hnibble, ⟨hsize₁, hsize₂, by simpa [State.enterInterrupt] using hsize₃⟩, ?_, ?_⟩
  · intro f hf
    obtain rfl | hf := List.mem_cons.mp hf
    · exact ⟨hinst, rfl⟩
    · exact hframes f hf
  · simpa [State.depthBounded] using hroom

theorem State.Inv.perform (hs : s.Inv) {a : Access} {v : Word} (h : perform a s = .ok (t, v)) : t.Inv := by
  obtain rfl | ⟨i, r, x, rfl⟩ | ⟨b, x, rfl⟩ | ⟨b, x, rfl⟩ | ⟨b, x, rfl⟩ | ⟨n, x, rfl⟩ | ⟨x, rfl⟩ | ⟨i, x, rfl⟩
    | ⟨k, i, rfl⟩ := perform_cases h
  · exact hs
  · exact hs.setReg i r (storedValue_within _ _ _ _)
  · exact hs.congr (by simp) (by simp) (by simp) (by simp) (by simp) (by simp)
  · exact hs.congr rfl rfl (by simp [State.wrISER]) rfl rfl rfl
  · exact hs.congr rfl rfl (by simp [State.wrICER]) rfl rfl rfl
  · exact hs.wrIPR n x
  · exact hs
  · exact hs
  · exact hs

/-- Setting one of the five flags keeps SR within its named bits (R34). -/
theorem flagSet_within {sr : Half} (h : sr &&& ~~~(Reg.namedMask .sr) = 0#16) {n : Nat} (hn : n < 5) :
    flagSet sr n &&& ~~~(Reg.namedMask .sr) = 0#16 := by
  refine within_or h ?_
  interval_cases n <;> decide

theorem State.Inv.updateEvent (hs : s.Inv) (i : Inst) : (updateEvent i s).Inv := by
  unfold Machine.updateEvent
  split
  · exact hs.setReg i .sr (flagSet_within (hs.namedBitsOnly i .sr) (by decide))
  · exact hs

theorem State.Inv.captureEvent (hs : s.Inv) (i : Inst) (c : Channel) (d : Half) : (captureEvent i c d s).Inv := by
  have hflag : (s.setReg i .sr (flagSet (s.reg i .sr) c.num)).Inv :=
    hs.setReg i .sr (flagSet_within (hs.namedBitsOnly i .sr) (by cases c <;> decide))
  have hccr : s.cfg.writeMask c.ccr = 0xFFFF#16 := by cases c <;> rfl
  unfold Machine.captureEvent
  split
  · dsimp only
    split
    · refine hflag.setReg i c.ccr ?_
      rw [State.setReg_cfg, hccr, within_iff, and_ffff]
    · exact hflag
  · exact hs

theorem State.Inv.pendStep (hs : s.Inv) (i : Inst) : (pendStep i s).Inv := by
  obtain e | e := pendStep_cases i s <;> rw [e]
  · exact hs.congr rfl rfl rfl rfl (by simp [State.setPending]) rfl
  · exact hs

theorem State.Inv.contextStep (hs : s.Inv) (h : contextStep s = .next t) : t.Inv := by
  obtain rfl | ⟨c, w, rfl⟩ | ⟨f, fs, -, rfl⟩ | rfl | ⟨u, rfl | ⟨a, v, hperf⟩, c, rfl⟩ := contextStep_cases h
  · exact hs
  · exact hs.raise c w
  · exact hs.returnFromInterrupt
  · exact hs.completeCommand
  · exact hs.setCurrent c
  · exact (hs.perform hperf).setCurrent c

theorem State.Inv.exec (hs : s.Inv) {cmd : Instr} (h : exec cmd s = .next t) : t.Inv :=
  exec_preserves State.Inv (fun _ _ _ _ hu hperf => hu.perform hperf) (fun _ hu => hu.advance)
    (fun _ c w hu => hu.raise c w) hs h

theorem TurnMove.inv (h : TurnMove s t) (hs : s.Inv) : t.Inv := by
  obtain rfl | ⟨i, rfl⟩ | ⟨i, c, d, rfl⟩ | ⟨i, rfl⟩ | ⟨i, hi, rfl⟩ | hctx | ⟨c, w, rfl⟩ | ⟨cmd, -, hexec⟩ := h
  · exact hs
  · exact hs.updateEvent i
  · exact hs.captureEvent i c d
  · exact hs.pendStep i
  · exact hs.enterInterrupt hi
  · exact hs.contextStep hctx
  · exact hs.raise c w
  · exact hs.exec hexec

/-! ## The trace -/

/-- One atomic access only appends to the trace (R54). -/
theorem perform_trace {a : Access} {v : Word} (h : perform a s = .ok (t, v)) : s.trace <+: t.trace := by
  obtain rfl | ⟨i, r, x, rfl⟩ | ⟨b, x, rfl⟩ | ⟨b, x, rfl⟩ | ⟨b, x, rfl⟩ | ⟨n, x, rfl⟩ | ⟨x, rfl⟩ | ⟨i, x, rfl⟩
    | ⟨k, i, rfl⟩ := perform_cases h <;> simp

theorem State.trace_prefix_returnFromInterrupt : s.trace <+: s.returnFromInterrupt.trace := by
  unfold State.returnFromInterrupt
  split
  · exact List.prefix_rfl
  · exact List.prefix_append _ _

theorem contextStep_trace (h : contextStep s = .next t) : s.trace <+: t.trace := by
  obtain rfl | ⟨c, w, rfl⟩ | ⟨f, fs, -, rfl⟩ | rfl | ⟨u, rfl | ⟨a, v, hperf⟩, c, rfl⟩ := contextStep_cases h
  · exact List.prefix_rfl
  · exact List.prefix_rfl
  · exact State.trace_prefix_returnFromInterrupt
  · simp [State.completeCommand]
  · simp
  · simpa using perform_trace hperf

theorem exec_trace {cmd : Instr} (h : exec cmd s = .next t) : s.trace <+: t.trace :=
  exec_preserves (fun u => s.trace <+: u.trace) (fun _ _ _ _ hu hperf => hu.trans (perform_trace hperf))
    (fun _ hu => by simpa using hu) (fun _ _ _ hu => hu) List.prefix_rfl h

theorem TurnMove.trace (h : TurnMove s t) : s.trace <+: t.trace := by
  obtain rfl | ⟨i, rfl⟩ | ⟨i, c, d, rfl⟩ | ⟨i, rfl⟩ | ⟨i, -, rfl⟩ | hctx | ⟨c, w, rfl⟩ | ⟨cmd, -, hexec⟩ := h
  · exact List.prefix_rfl
  · obtain ⟨v, e⟩ | e := updateEvent_cases i s <;> simp [e]
  · obtain ⟨v, e⟩ | ⟨v, e⟩ | e := captureEvent_cases i c d s <;> simp [e]
  · obtain e | e := pendStep_cases i s <;> simp [e]
  · exact List.prefix_append _ _
  · exact contextStep_trace hctx
  · exact List.prefix_rfl
  · exact exec_trace hexec

/-! ## After reset -/

theorem State.reset_reg (i : Inst) (r : Reg) : State.reset.reg i r = 0#16 := by
  have htimer : State.reset.timer i = TimerRegs.zero := by
    simp [State.timer, State.reset, State.resetWith, Params.default]
  rw [State.reg, htimer]
  cases r <;> rfl

theorem State.reset_handle (i : Inst) : State.reset.handle i = Handle.unwritten := by
  simp [State.handle, State.reset, State.resetWith]

theorem State.reset_prioWord (n : Nat) : State.reset.prioWord n = 0#32 := by
  simp only [State.prioWord, State.reset, State.resetWith, List.getD_eq_getElem?_getD, List.getElem?_replicate]
  split <;> rfl

theorem State.reset_isPending (l : Nat) : State.reset.isPending l = false := by
  simp only [State.isPending, State.reset, State.resetWith, List.getD_eq_getElem?_getD, List.getElem?_replicate]
  split <;> rfl

end Sys2Proof.Machine

namespace Sys2Proof.Proofs

open Sys2Proof Sys2Proof.Machine

/-- Settles O53: every turn keeps the invariant, operation by operation. -/
theorem stepKeepsTheInvariant : Obligations.StepKeepsTheInvariant := by
  intro s t hs h
  obtain ⟨-, -, ts, d, hmove⟩ := machineStep_cases h
  exact hmove.inv hs

/-- Settles O58: every turn leaves the old trace at the beginning of the new one. -/
theorem traceOnlyGrows : Obligations.TraceOnlyGrows := by
  intro s t h
  obtain ⟨-, -, ts, d, hmove⟩ := machineStep_cases h
  obtain ⟨more, hmore⟩ := hmove.trace
  exact ⟨more, hmore.symm⟩

/-- Settles O54: all registers and priority words are 0, and no frame is active. -/
theorem resetSatisfiesTheInvariant : Obligations.ResetSatisfiesTheInvariant := by
  refine ⟨by decide, ?_, ?_, by unfold State.sizesRight; decide, ?_, ?_⟩
  · intro i r
    rw [State.reset_reg, BitVec.zero_and]
  · intro n
    rw [State.reset_prioWord, BitVec.zero_and]
  · intro f hf
    cases hf
  · exact Nat.zero_le _

/-- Settles O59. -/
theorem resetLeavesEverythingAtItsResetValue : Obligations.ResetLeavesEverythingAtItsResetValue :=
  ⟨State.reset_reg, State.reset_handle, rfl, rfl, rfl, rfl, State.reset_isPending, rfl, rfl, rfl, rfl, rfl, rfl⟩

end Sys2Proof.Proofs

/-!
PROOF. Register indices (R239), the step of the machine at the base level (R50, R310), fault stop (R300) and the pending step
(R312).
-/
namespace Sys2Proof

/-! ## Register indices -/

theorem Reg.ofIndex_isSome_iff : ∀ idx : BitVec 4, (Reg.ofIndex idx).isSome = true ↔ idx.toNat ≤ 12 := by decide

theorem Reg.ofIndex_eq_brk_iff : ∀ idx : BitVec 4, Reg.ofIndex idx = some .brk ↔ idx.toNat = 12 := by decide

theorem Reg.index_of_ofIndex : ∀ (idx : BitVec 4), ∀ r ∈ Reg.ofIndex idx, r.index = idx := by decide

/-- BRK is the one register that not every timer has (R31, R239). -/
theorem Params.regAt_of_brk (p : Params) (i : Inst) {idx : BitVec 4} (h : Reg.ofIndex idx = some .brk) :
    p.regAt i idx = if i = p.advancedInst then some .brk else none := by
  simp [Params.regAt, h]

theorem Params.regAt_of_ne_brk (p : Params) (i : Inst) {idx : BitVec 4} (h : Reg.ofIndex idx ≠ some .brk) :
    p.regAt i idx = Reg.ofIndex idx := by
  unfold Params.regAt
  split
  · contradiction
  · rfl

theorem Params.regAt_isSome_iff (p : Params) (i : Inst) (idx : BitVec 4) :
    (p.regAt i idx).isSome = true ↔ idx.toNat ≤ 11 ∨ (idx.toNat = 12 ∧ i = p.advancedInst) := by
  by_cases h : Reg.ofIndex idx = some .brk
  · have h12 := (Reg.ofIndex_eq_brk_iff idx).mp h
    rw [Params.regAt_of_brk p i h]
    by_cases hi : i = p.advancedInst <;> simp [hi, h12]
  · have h12 : idx.toNat ≠ 12 := fun e => h ((Reg.ofIndex_eq_brk_iff idx).mpr e)
    rw [Params.regAt_of_ne_brk p i h, Reg.ofIndex_isSome_iff]
    omega

theorem Params.ofIndex_of_regAt {p : Params} {i : Inst} {idx : BitVec 4} {r : Reg} (h : p.regAt i idx = some r) :
    Reg.ofIndex idx = some r := by
  by_cases hbrk : Reg.ofIndex idx = some .brk
  · rw [Params.regAt_of_brk p i hbrk] at h
    split at h
    · rwa [hbrk]
    · cases h
  · rwa [Params.regAt_of_ne_brk p i hbrk] at h

end Sys2Proof

namespace Sys2Proof.Machine

open Sys2Proof

variable {s t : State}

/-! ## The step of the machine -/

/-- At the base level between two commands the command turn runs the decoded command whole. -/
theorem commandTurn_of_decode {w : Word} {cmd : Instr} (hb : s.betweenCommands = true)
    (hf : fetch s = some w) (hd : decode w = .ok cmd) : commandTurn s = exec cmd s := by
  simp [commandTurn, hb, hf, hd]

theorem machineStep_of_turn {env : Environment} {tn : Turn} {ts : List Turn} (hfault : s.fault = none)
    (hlegal : paramsLegal s.cfg = true) (hs : s.schedule = tn :: ts) :
    machineStep env s = takeTurn tn { s with schedule := ts } := by
  simp [machineStep, hfault, hlegal, hs]

theorem machineStep_of_no_turn {env : Environment} (hfault : s.fault = none)
    (hlegal : paramsLegal s.cfg = true) (hs : s.schedule = []) : machineStep env s = defaultTurn env s := by
  simp [machineStep, hfault, hlegal, hs]

/-- With no turn named and no line to enter, a base-level command about to start runs whole (log entry 2). -/
theorem machineStep_runs_waiting_command {env : Environment} {w : Word} {cmd : Instr} (hfault : s.fault = none)
    (hlegal : paramsLegal s.cfg = true) (hs : s.schedule = []) (hn : s.nextEntry = none)
    (hb : s.betweenCommands = true) (hf : fetch s = some w) (hd : decode w = .ok cmd) :
    machineStep env s = exec cmd s := by
  have hwaits : s.commandWaits = true := by simp [State.commandWaits, hb, hf]
  rw [machineStep_of_no_turn hfault hlegal hs, defaultTurn, hn]
  simp [hwaits, commandTurn_of_decode hb hf hd]

theorem exec_of_fault {r : FaultRecord} (h : s.fault = some r) (cmd : Instr) :
    exec cmd s = .fault (.stopped r) := by
  simp [exec_eq_wholeCommand, wholeCommand, h]

/-! ## A placed word -/

/-- No line is entered while none is pending (R313). -/
theorem State.nextEntry_of_no_pending (h : ∀ l, s.isPending l = false) : s.nextEntry = none := by
  cases hn : s.nextEntry with
  | none => rfl
  | some i =>
    obtain ⟨-, helig⟩ := State.eligible_of_nextEntry hn
    simpa [h] using State.isPending_of_eligible helig

theorem State.isPending_aboutToRun (w : Word) (l : Nat) : (s.aboutToRun w).isPending l = false := by
  simp only [State.isPending, State.aboutToRun, List.getD_eq_getElem?_getD, List.getElem?_replicate]
  split <;> rfl

/-- The placed word stands at the command index, however long the program is. -/
theorem State.fetch_aboutToRun (w : Word) : fetch (s.aboutToRun w) = some w := by
  have hlength : (s.prog.take s.cpc ++ List.replicate (s.cpc - s.prog.length) 0).length = s.cpc := by
    simp
    omega
  simp only [fetch, State.aboutToRun]
  rw [List.getElem?_append_right hlength.le, hlength]
  simp

theorem State.withFetchWord_toNat (w : Word) : s.withFetchWord 32 w.toNat = s.aboutToRun w := by
  rw [State.withFetchWord, Nat.mod_eq_of_lt w.isLt, BitVec.ofNat_toNat, BitVec.setWidth_eq]

/-! ## The pending step -/

/-- The mask of the five flags, bit by bit (R33, R34). -/
theorem getLsbD_flagMask {k : Nat} (hk : k < 16) : (0x001F#16).getLsbD k = decide (k < 5) := by
  revert k
  decide

theorem and_flagMask_ne_zero_iff (v : Half) : v &&& 0x001F#16 ≠ 0#16 ↔ ∃ n, n < 5 ∧ v.getLsbD n = true := by
  constructor
  · intro hne
    by_contra hnone
    refine hne (BitVec.eq_of_getLsbD_eq fun k hk => ?_)
    rw [BitVec.getLsbD_and, getLsbD_flagMask hk, BitVec.getLsbD_zero]
    by_cases h5 : k < 5
    · have hclear : v.getLsbD k = false := by simpa using fun hv => hnone ⟨k, h5, hv⟩
      simp [hclear]
    · simp [h5]
  · rintro ⟨n, hn, hv⟩ hzero
    have hbit := congrArg (fun x : Half => x.getLsbD n) hzero
    simp [getLsbD_flagMask (show n < 16 by omega), hv, hn] at hbit

/-- The request of R311: clocked, and some flag stands with its enable bit. -/
theorem State.request_iff (i : Inst) :
    s.request i = true ↔ s.clocked i = true
      ∧ ∃ n, n < 5 ∧ (s.reg i .sr).getLsbD n = true ∧ (s.reg i .ier).getLsbD n = true := by
  simp only [State.request, Bool.and_eq_true, bne_iff_ne, and_flagMask_ne_zero_iff, BitVec.getLsbD_and]

theorem pendStep_of_request {i : Inst} (hi : s.cfg.hasInst i = true) (hr : s.request i = true) :
    pendStep i s = s.setPending (s.cfg.lineOf i) true := by
  simp [pendStep, hi, hr]

theorem pendStep_of_no_request {i : Inst} (h : ¬ (s.cfg.hasInst i = true ∧ s.request i = true)) :
    pendStep i s = s := by
  simp [pendStep, h]

theorem State.isPending_setPending_self {l : Nat} (h : l < s.pending.length) (v : Bool) :
    (s.setPending l v).isPending l = v := by
  simp [State.isPending, State.setPending, h]

theorem State.isPending_setPending_ne {l k : Nat} (h : k ≠ l) (v : Bool) :
    (s.setPending l v).isPending k = s.isPending k := by
  simp [State.isPending, State.setPending, List.getElem?_set_ne h.symm]

/-- A line outside the latches has none to set (log entry 9). -/
theorem State.setPending_of_le {l : Nat} (h : s.pending.length ≤ l) (v : Bool) : s.setPending l v = s := by
  simp [State.setPending, List.set_eq_of_length_le h]

end Sys2Proof.Machine

namespace Sys2Proof.Proofs

open Sys2Proof Sys2Proof.Machine

/-- Settles O34. -/
theorem registerIndicesThatExist : Obligations.RegisterIndicesThatExist := by
  intro p i idx
  exact ⟨p.regAt_isSome_iff i idx, fun r hr => Reg.index_of_ofIndex idx r (Params.ofIndex_of_regAt hr)⟩

/-- Settles O39: both ways of starting a base-level command are its meaning. -/
theorem stepRunsTheDecodedCommand : Obligations.StepRunsTheDecodedCommand := by
  intro s w cmd hfault hlegal hb hf hd
  refine ⟨fun hs hn => machineStep_runs_waiting_command hfault hlegal hs hn hb hf hd, fun ts hs => ?_⟩
  calc step s = takeTurn .command { s with schedule := ts } := machineStep_of_turn hfault hlegal hs
    _ = exec cmd { s with schedule := ts } := commandTurn_of_decode (s := { s with schedule := ts }) hb hf hd

/-- Settles O40: a placed word waits at the base level with no turn named and no line pending. -/
theorem placedWordIsRunByTheNextStep : Obligations.PlacedWordIsRunByTheNextStep := by
  intro s w cmd hlegal hd
  rw [State.withFetchWord_toNat]
  exact machineStep_runs_waiting_command rfl hlegal rfl
    (State.nextEntry_of_no_pending (State.isPending_aboutToRun w)) rfl (State.fetch_aboutToRun w) hd

/-- Settles O42. -/
theorem faultStopsEveryAgent : Obligations.FaultStopsEveryAgent := by
  intro s r h
  exact ⟨by simp [step, machineStep, h], exec_of_fault h⟩

/-- Settles O48: the pending step is one write of a latch, guarded by the request. -/
theorem pendingStepLatchesARequest : Obligations.PendingStepLatchesARequest := by
  intro i s ts hfault hlegal ⟨_, _, hsize⟩ hs
  have hstep : step s = .next (pendStep i { s with schedule := ts }) := machineStep_of_turn hfault hlegal hs
  constructor
  · rintro ⟨hi, hreq⟩
    have hpend : pendStep i { s with schedule := ts }
        = ({ s with schedule := ts } : State).setPending (s.cfg.lineOf i) true :=
      pendStep_of_request hi (State.request_iff (s := { s with schedule := ts }) i |>.mpr hreq)
    rw [hstep, hpend]
    refine ⟨fun hline => ⟨_, rfl, rfl, ?_, fun l hl => State.isPending_setPending_ne hl true⟩, fun hline => ?_⟩
    · exact State.isPending_setPending_self (hsize ▸ hline) true
    · rw [State.setPending_of_le (hsize ▸ hline)]
  · intro hno
    rw [hstep, pendStep_of_no_request]
    rintro ⟨hi, hr⟩
    obtain ⟨hclk, n, hn, hsr, hier⟩ := (State.request_iff i).mp hr
    obtain h | h | h := hno
    · exact absurd (hi.symm.trans h) (by decide)
    · exact absurd (hclk.symm.trans h) (by decide)
    · obtain h | h := h n hn
      · exact absurd (hsr.symm.trans h) (by decide)
      · exact absurd (hier.symm.trans h) (by decide)

end Sys2Proof.Proofs

/-!
PROOF. What accesses each command makes and where it can fault (R52, R302), and the dispatcher with its callback programs
(R220, R221).
-/
namespace Sys2Proof

/-! ## A word that decodes is the word of its command (R91-R97) -/

/-- A field that a row's mask fixes has the value of the row's pattern, 0 (R97, step 3). -/
theorem extractLsb'_eq_zero_of_mask {w m p : Word} {a n : Nat} (hm : w &&& m = p)
    (hones : m.extractLsb' a n = BitVec.allOnes n) (hzero : p.extractLsb' a n = 0#n) :
    w.extractLsb' a n = 0#n := by
  have h := congrArg (BitVec.extractLsb' a n) hm
  rwa [BitVec.extractLsb'_and, hones, hzero, BitVec.and_allOnes] at h

theorem formatT_of_fields {o : Opcode} {w : Word} {ch : BitVec 3} {imm : Half} (hop : opField w = o.code)
    (hch : chField w = ch) (hz : w.extractLsb' 16 5 = 0#5) (himm : immField w = imm) :
    formatT o (instField w) ch imm = w := by
  rw [formatT, ← hop, ← hch, ← hz, ← himm]
  apply BitVec.eq_of_getElem_eq; intro k hk
  simp [opField, instField, chField, immField]
  grind

theorem formatR_of_fields {o : Opcode} {w : Word} {imm : Half} (hop : opField w = o.code)
    (hz : w.extractLsb' 16 4 = 0#4) (himm : immField w = imm) :
    formatR o (instField w) (regField w) imm = w := by
  rw [formatR, ← hop, ← hz, ← himm]
  apply BitVec.eq_of_getElem_eq; intro k hk
  simp [opField, instField, regField, immField]
  grind

theorem formatN_of_fields {o : Opcode} {w : Word} {en : BitVec 1} {level : BitVec 8} (hop : opField w = o.code)
    (hen : enField w = en) (hz : w.extractLsb' 24 2 = 0#2) (hlevel : levelField w = level) :
    formatN o en level (immField w) = w := by
  rw [formatN, ← hop, ← hen, ← hz, ← hlevel]
  apply BitVec.eq_of_getElem_eq; intro k hk
  simp [opField, enField, levelField, immField]
  grind

/-- The operands of a row's word give that word back, when its fixed-zero fields are 0. -/
theorem Opcode.encode_operands {o : Opcode} {w : Word} (hop : opField w = o.code) (hm : w &&& o.mask = o.pattern) :
    encode (o.operands w) = w := by
  have hzero {a n : Nat} (hones : o.mask.extractLsb' a n = BitVec.allOnes n)
      (hz : o.pattern.extractLsb' a n = 0#n) : w.extractLsb' a n = 0#n :=
    extractLsb'_eq_zero_of_mask hm hones hz
  cases o
  case clkEn | baseInit | baseStart | baseStop | baseStartIt | baseStopIt | irqDispatch =>
    exact formatT_of_fields hop (hzero (by decide) (by decide)) (hzero (by decide) (by decide))
      (hzero (by decide) (by decide))
  case pwmInit | pwmStart | pwmStop | icInit | icStartIt | icStopIt | icRead =>
    exact formatT_of_fields hop rfl (hzero (by decide) (by decide)) (hzero (by decide) (by decide))
  case pwmSetDuty => exact formatT_of_fields hop rfl (hzero (by decide) (by decide)) rfl
  case nvicSetEn =>
    exact formatN_of_fields hop rfl (hzero (by decide) (by decide)) (hzero (by decide) (by decide))
  case nvicSetPrio =>
    exact formatN_of_fields hop (hzero (by decide) (by decide)) (hzero (by decide) (by decide)) rfl
  case regRd => exact formatR_of_fields hop (hzero (by decide) (by decide)) (hzero (by decide) (by decide))
  case regWr | hset => exact formatR_of_fields hop (hzero (by decide) (by decide)) rfl

theorem encode_of_decode {w : Word} {cmd : Instr} (h : decode w = .ok cmd) : encode cmd = w := by
  obtain ⟨o, hop, hm, rfl, -⟩ := decode_ok h
  exact Opcode.encode_operands hop hm

end Sys2Proof

namespace Sys2Proof.Machine

open Sys2Proof

variable {s t : State}

/-! ## The accesses each command makes -/

theorem Prog.Only.mono {A B : Access → Prop} (hAB : ∀ a, A a → B a) : ∀ {p : Prog}, p.Only A → p.Only B
  | .done, _ => trivial
  | .act a _, h => ⟨hAB a h.1, fun v => Prog.Only.mono hAB (h.2 v)⟩

theorem Prog.only_channelProg {A : Access → Prop} {ch : BitVec 3} {p : Channel → Prog}
    (h : ∀ c, (p c).Only A) : (channelProg ch p).Only A := by
  unfold channelProg
  split
  · exact h _
  · trivial

theorem Prog.only_registerProg {A : Access → Prop} {params : Params} {i : Inst} {idx : BitVec 4}
    {k : Reg → Prog} (h : ∀ r, (k r).Only A) : (registerProg params i idx k).Only A := by
  unfold registerProg
  split
  · exact h _
  · trivial

@[simp] theorem Prog.only_clockEnable {A : Access → Prop} {params : Params} {i : Inst} {k : Prog} :
    (clockEnable params i k).Only A
      ↔ A (.rdC (params.busOf i))
        ∧ ∀ c, A (.wrC (params.busOf i) (c ||| (1#32 <<< params.bitOf i))) ∧ k.Only A := by
  simp [clockEnable]

theorem Prog.only_setMasterOutput {A : Access → Prop} {params : Params} {i : Inst}
    (hrd : A (.rd i .brk)) (hwr : ∀ v, A (.wr i .brk v)) : (setMasterOutput params i).Only A := by
  unfold setMasterOutput
  split
  · simp [hrd, hwr]
  · trivial

theorem Prog.only_progNvicSetEn {A : Access → Prop} {en : BitVec 1} {line : BitVec 16}
    (hset : ∀ b v, A (.wrISER b v)) (hclear : ∀ b v, A (.wrICER b v)) : (progNvicSetEn en line).Only A := by
  unfold progNvicSetEn
  dsimp only
  split
  · split <;> simp [hset, hclear]
  · trivial

theorem Prog.only_captureStep {A : Access → Prop} {i : Inst} (hcb : A (.callback .captureEvent i)) (seen : Half) :
    (captureStep i seen).Only A := by
  unfold captureStep
  split <;> simp [hcb]

theorem Prog.only_progIrqDispatch {A : Access → Prop} {i : Inst} (hrd : A (.rd i .sr))
    (hwr : ∀ v, A (.wr i .sr v)) (hcb : ∀ kind, A (.callback kind i)) : (progIrqDispatch i).Only A := by
  simp only [progIrqDispatch, only_rd]
  refine ⟨hrd, fun v => ?_⟩
  split
  · simp [hwr, hcb, Prog.only_captureStep]
  · exact Prog.only_captureStep (hcb _) _

/-- The accesses that single commands out: the two ways of writing `result`, the write of a handle field, and a callback. -/
def Instr.mayMake (cmd : Instr) : Access → Prop
  | .rdResult _ _ => ∃ i ch, cmd = .icRead i ch
  | .setResult _ => ∃ i idx, cmd = .regRd i idx
  | .setField _ _ _ => ∃ i fld val, cmd = .hset i fld val
  | .callback _ _ => isDispatch cmd = true
  | .rd _ _ | .wr _ _ _ | .rdC _ | .wrC _ _ | .wrISER _ _ | .wrICER _ _ | .rdIPR _ | .wrIPR _ _ => True

/-- Only IC_READ and REG_RD write `result`, only HSET a handle field, and only IRQ_DISPATCH invokes callbacks (R52, R221, R230). -/
theorem commandProg_only (cmd : Instr) (p : Params) (h : Snapshot) :
    (commandProg cmd p h).Only (Instr.mayMake cmd) := by
  cases cmd with
  | clkEn i => simp only [commandProg, progClkEn]; split <;> simp [Instr.mayMake]
  | baseInit i => simp [commandProg, progBaseInit, Instr.mayMake]
  | baseStart i => simp [commandProg, progBaseStart, Instr.mayMake]
  | baseStop i => simp [commandProg, progBaseStop, Instr.mayMake]
  | baseStartIt i => simp [commandProg, progBaseStartIt, Instr.mayMake]
  | baseStopIt i => simp [commandProg, progBaseStopIt, Instr.mayMake]
  | pwmInit i ch =>
    exact Prog.only_channelProg fun c => by
      simpa [Instr.mayMake] using Prog.only_setMasterOutput trivial (fun _ => trivial)
  | pwmStart i ch => exact Prog.only_channelProg fun c => by simp [Instr.mayMake]
  | pwmStop i ch => exact Prog.only_channelProg fun c => by simp [Instr.mayMake]
  | pwmSetDuty i ch imm => exact Prog.only_channelProg fun c => by simp [Instr.mayMake]
  | icInit i ch => exact Prog.only_channelProg fun c => by simp [Instr.mayMake]
  | icStartIt i ch => exact Prog.only_channelProg fun c => by simp [Instr.mayMake]
  | icStopIt i ch => exact Prog.only_channelProg fun c => by simp [Instr.mayMake]
  | icRead i ch => exact Prog.only_channelProg fun c => by simp [Instr.mayMake]
  | irqDispatch i => exact Prog.only_progIrqDispatch trivial (fun _ => trivial) (fun _ => rfl)
  | nvicSetEn en line => exact Prog.only_progNvicSetEn (fun _ _ => trivial) (fun _ _ => trivial)
  | nvicSetPrio level line => simp [commandProg, progNvicSetPrio, Instr.mayMake]
  | regRd i idx => exact Prog.only_registerProg fun r => by simp [Instr.mayMake]
  | regWr i idx imm => exact Prog.only_registerProg fun r => by simp [Instr.mayMake]
  | hset i fld val => simp [commandProg, progHset, Instr.mayMake]

/-! ## Who writes `result` -/

/-- An access that leaves `result` alone (R52). -/
def Access.keepsResult : Access → Prop
  | .rdResult _ _ | .setResult _ => False
  | .rd _ _ | .wr _ _ _ | .rdC _ | .wrC _ _ | .wrISER _ _ | .wrICER _ _ | .rdIPR _ | .wrIPR _ _ => True
  | .setField _ _ _ | .callback _ _ => True

theorem perform_result {a : Access} {v : Word} (ha : a.keepsResult) (h : perform a s = .ok (t, v)) :
    t.result = s.result := by
  cases a <;> simp only [perform] at h
  case rdResult | setResult => exact ha.elim
  case rd i r => split at h <;> simp_all
  case wr i r x =>
    split at h
    · rename_i u hw
      simp only [Except.ok.injEq, Prod.mk.injEq] at h
      obtain ⟨rfl, -⟩ := h
      obtain ⟨-, rfl⟩ | ⟨-, -, rfl⟩ := State.wr_cases hw <;> simp
    · cases h
  all_goals
    simp only [Except.ok.injEq, Prod.mk.injEq] at h
    obtain ⟨rfl, -⟩ := h
    simp

/-! ## Where a command can fault -/

/-- An access of a register of timer `i`: the one kind of access that can fault (R73). -/
def Access.onTimer (i : Inst) : Access → Prop
  | .rd j _ | .wr j _ _ | .rdResult j _ => j = i
  | .rdC _ | .wrC _ _ | .wrISER _ _ | .wrICER _ _ | .rdIPR _ | .wrIPR _ _ => False
  | .setResult _ | .setField _ _ _ | .callback _ _ => False

/-- An access that no state makes fault. -/
def Access.total : Access → Prop
  | .rd _ _ | .wr _ _ _ | .rdResult _ _ | .callback _ _ => False
  | .rdC _ | .wrC _ _ | .wrISER _ _ | .wrICER _ _ | .rdIPR _ | .wrIPR _ _ => True
  | .setResult _ | .setField _ _ _ => True

/-- An access of a command that follows its first access of timer `i`. -/
def Access.afterFirst (i : Inst) : Access → Prop
  | .rd j _ | .wr j _ _ | .rdResult j _ => j = i
  | .setResult _ => True
  | .rdC _ | .wrC _ _ | .wrISER _ _ | .wrICER _ _ | .rdIPR _ | .wrIPR _ _ => False
  | .setField _ _ _ | .callback _ _ => False

/-- Accesses of timer `i` do not fault (R73). -/
def State.answers (s : State) (i : Inst) : Prop := s.clocked i = true ∨ s.cfg.unclockedPolicy = .ignore

theorem State.rd_of_answers {i : Inst} (h : s.answers i) (r : Reg) : ∃ v, s.rd i r = .ok v := by
  unfold State.rd
  split
  · exact ⟨_, rfl⟩
  · obtain h | h := h
    · contradiction
    · exact ⟨0, by rw [h]⟩

theorem State.wr_of_answers {i : Inst} (h : s.answers i) (r : Reg) (v : Half) :
    ∃ t, s.wr i r v = .ok t ∧ t.answers i := by
  cases hclk : s.clocked i with
  | true => exact ⟨_, State.wr_of_clocked hclk r v, .inl (by simpa using hclk)⟩
  | false =>
    have hignore : s.cfg.unclockedPolicy = .ignore := h.resolve_left (by simp [hclk])
    exact ⟨s, by simp [State.wr, hclk, hignore], h⟩

/-- Once the timer answers, nothing a command does after its first access of it faults. -/
theorem perform_afterFirst {i : Inst} {a : Access} (ha : a.afterFirst i) (hs : s.answers i) :
    ∃ t v, perform a s = .ok (t, v) ∧ t.answers i := by
  cases a <;> simp only [Access.afterFirst] at ha
  case rd j r =>
    subst ha
    obtain ⟨v, hv⟩ := State.rd_of_answers hs r
    exact ⟨_, _, by rw [perform, hv], hs⟩
  case wr j r x =>
    subst ha
    obtain ⟨u, hu, hanswers⟩ := State.wr_of_answers hs r x
    exact ⟨_, _, by rw [perform, hu], hanswers⟩
  case rdResult j r =>
    subst ha
    obtain ⟨v, hv⟩ := State.rd_of_answers hs r
    exact ⟨{ s with result := v.setWidth 32 }, 0, by rw [perform, hv], hs⟩
  case setResult v => exact ⟨_, _, rfl, hs⟩

theorem perform_total {a : Access} (ha : a.total) (s : State) : ∃ t v, perform a s = .ok (t, v) := by
  cases a
  case rd | wr | rdResult | callback => exact ha.elim
  all_goals exact ⟨_, _, rfl⟩

/-- A timer access that a state answers has shown that the timer answers. -/
theorem answers_of_perform {i : Inst} {a : Access} {v : Word} (ha : a.onTimer i) (h : perform a s = .ok (t, v)) :
    s.answers i := by
  by_contra hno
  have hclk : s.clocked i = false := by simpa using fun e => hno (.inl e)
  have hpolicy : s.cfg.unclockedPolicy = .fault := by
    cases e : s.cfg.unclockedPolicy
    · rfl
    · exact absurd (.inr e) hno
  cases a <;> simp only [Access.onTimer] at ha <;> subst ha
  all_goals simp [perform, State.rd_of_unclocked hclk hpolicy, State.wr_of_unclocked hclk hpolicy] at h

/-- Accesses of a kind that never faults, as long as `P` holds, run to the end. -/
theorem runProg_ok_of_only {A : Access → Prop} {P : State → Prop} (w : Word)
    (hp : ∀ a s, A a → P s → ∃ t v, perform a s = .ok (t, v) ∧ P t)
    (hcb : ∀ kind i, ¬ A (.callback kind i)) :
    ∀ (p : Prog) (s : State), p.Only A → P s → ∃ u, runProg noCallback w p s = .ok u := by
  intro p
  induction p with
  | done => exact fun s _ _ => ⟨s, rfl⟩
  | act a k ih =>
    intro s ⟨ha, hk⟩ hs
    obtain ⟨t, v, hperf, ht⟩ := hp a s ha hs
    obtain ⟨u, hu⟩ := ih v t (hk v) ht
    refine ⟨u, ?_⟩
    cases a
    case callback kind i => exact absurd ha (hcb kind i)
    all_goals simpa only [runProg, hperf] using hu

/-- If the program faults in `s`, then with its own word and before it has changed anything. -/
def Prog.FaultsAtOnce (p : Prog) (s : State) : Prop :=
  ∀ w c w' u, runProg noCallback w p s = .fault c w' u → w' = w ∧ u = s

theorem Prog.faultsAtOnce_of_ok {p : Prog} (h : ∀ w, ∃ u, runProg noCallback w p s = .ok u) :
    p.FaultsAtOnce s := by
  intro w c w' u hfault
  obtain ⟨u', hok⟩ := h w
  rw [hok] at hfault
  cases hfault

theorem Prog.faultsAtOnce_of_total {p : Prog} (h : p.Only Access.total) : p.FaultsAtOnce s :=
  Prog.faultsAtOnce_of_ok fun w => runProg_ok_of_only (P := fun _ => True) w
    (fun a s ha _ => by simpa using perform_total ha s) (fun _ _ => id) p s h trivial

theorem Prog.faultsAtOnce_of_answers {i : Inst} {p : Prog} (hs : s.answers i) (h : p.Only (Access.afterFirst i)) :
    p.FaultsAtOnce s :=
  Prog.faultsAtOnce_of_ok fun w => runProg_ok_of_only (P := (State.answers · i)) w
    (fun _ _ ha hs => perform_afterFirst ha hs) (fun _ _ => id) p s h hs

/-- A command whose first access is of timer `i` faults there or not at all. -/
theorem Prog.faultsAtOnce_of_first {i : Inst} {a : Access} {k : Word → Prog} (ha : a.onTimer i)
    (h : (Prog.act a k).Only (Access.afterFirst i)) : (Prog.act a k).FaultsAtOnce s := by
  cases hperf : Machine.perform a s with
  | ok tv =>
    obtain ⟨t, v⟩ := tv
    exact Prog.faultsAtOnce_of_answers (answers_of_perform ha hperf) h
  | error c =>
    intro w c' w' u hrun
    simp only [runProg, hperf, Run.fault.injEq] at hrun
    obtain ⟨-, rfl, rfl⟩ := hrun
    exact ⟨rfl, rfl⟩

theorem Prog.faultsAtOnce_channelProg {ch : BitVec 3} {p : Channel → Prog} (h : ∀ c, (p c).FaultsAtOnce s) :
    (channelProg ch p).FaultsAtOnce s := by
  unfold channelProg
  split
  · exact h _
  · exact Prog.faultsAtOnce_of_ok fun _ => ⟨s, rfl⟩

theorem Prog.faultsAtOnce_registerProg {params : Params} {i : Inst} {idx : BitVec 4} {k : Reg → Prog}
    (h : ∀ r, (k r).FaultsAtOnce s) : (registerProg params i idx k).FaultsAtOnce s := by
  unfold registerProg
  split
  · exact h _
  · exact Prog.faultsAtOnce_of_ok fun _ => ⟨s, rfl⟩

theorem Prog.faultsAtOnce_rd {i : Inst} {r : Reg} {k : Half → Prog}
    (h : ∀ v : Word, (k (v.setWidth 16)).Only (Access.afterFirst i)) : (Prog.rd i r k).FaultsAtOnce s :=
  Prog.faultsAtOnce_of_first (i := i) rfl ⟨rfl, h⟩

theorem Prog.faultsAtOnce_wr {i : Inst} {r : Reg} {v : Half} {k : Prog} (h : k.Only (Access.afterFirst i)) :
    (Prog.wr i r v k).FaultsAtOnce s :=
  Prog.faultsAtOnce_of_first (i := i) rfl ⟨rfl, fun _ => h⟩

/-- Enabling a timer's clock takes no fault, whatever follows (R75, R110). -/
theorem runProg_clockEnable (cb : CallbackRunner) (w : Word) (i : Inst) (k : Prog) :
    runProg cb w (clockEnable s.cfg i k) s
      = runProg cb w k (s.setClk (s.cfg.busOf i) (s.clk (s.cfg.busOf i) ||| (1#32 <<< s.cfg.bitOf i))) := rfl

/-- BASE_INIT cannot fault after its checks: it has enabled the clock before its first timer access (R111). -/
theorem progBaseInit_faultsAtOnce (i : Inst) (h : Snapshot) : (progBaseInit s.cfg i h).FaultsAtOnce s := by
  refine Prog.faultsAtOnce_of_ok fun w => ?_
  rw [progBaseInit, runProg_clockEnable]
  exact runProg_ok_of_only (P := (State.answers · i)) w (fun _ _ ha hs => perform_afterFirst ha hs)
    (fun _ _ => id) _ _ (by simp [Access.afterFirst]) (.inl (s.clocked_after_enable i))

/-- No command but IRQ_DISPATCH faults after its first access (R302). -/
theorem commandProg_faultsAtOnce {cmd : Instr} (hd : isDispatch cmd = false) (h : Snapshot) :
    (commandProg cmd s.cfg h).FaultsAtOnce s := by
  cases cmd with
  | clkEn i =>
    refine Prog.faultsAtOnce_of_total ?_
    simp only [commandProg, progClkEn]
    split <;> simp [Access.total]
  | baseInit i => exact progBaseInit_faultsAtOnce i h
  | baseStart i =>
    simp only [commandProg, progBaseStart]
    exact Prog.faultsAtOnce_rd fun v => by simp [Access.afterFirst]
  | baseStop i =>
    simp only [commandProg, progBaseStop]
    exact Prog.faultsAtOnce_rd fun v => by simp [Access.afterFirst]
  | baseStartIt i =>
    simp only [commandProg, progBaseStartIt]
    exact Prog.faultsAtOnce_rd fun v => by simp [Access.afterFirst]
  | baseStopIt i =>
    simp only [commandProg, progBaseStopIt]
    exact Prog.faultsAtOnce_rd fun v => by simp [Access.afterFirst]
  | pwmInit i ch =>
    exact Prog.faultsAtOnce_channelProg fun c => Prog.faultsAtOnce_rd fun v => by
      simpa [Access.afterFirst] using
        Prog.only_setMasterOutput (A := Access.afterFirst i) rfl (fun _ => rfl)
  | pwmStart i ch =>
    exact Prog.faultsAtOnce_channelProg fun c => Prog.faultsAtOnce_rd fun v => by simp [Access.afterFirst]
  | pwmStop i ch =>
    exact Prog.faultsAtOnce_channelProg fun c => Prog.faultsAtOnce_rd fun v => by simp [Access.afterFirst]
  | pwmSetDuty i ch imm => exact Prog.faultsAtOnce_channelProg fun c => Prog.faultsAtOnce_wr trivial
  | icInit i ch =>
    exact Prog.faultsAtOnce_channelProg fun c => Prog.faultsAtOnce_rd fun v => by simp [Access.afterFirst]
  | icStartIt i ch =>
    exact Prog.faultsAtOnce_channelProg fun c => Prog.faultsAtOnce_rd fun v => by simp [Access.afterFirst]
  | icStopIt i ch =>
    exact Prog.faultsAtOnce_channelProg fun c => Prog.faultsAtOnce_rd fun v => by simp [Access.afterFirst]
  | icRead i ch =>
    exact Prog.faultsAtOnce_channelProg fun c =>
      Prog.faultsAtOnce_of_first (i := i) rfl ⟨rfl, fun _ => trivial⟩
  | irqDispatch i => cases hd
  | nvicSetEn en line =>
    exact Prog.faultsAtOnce_of_total (Prog.only_progNvicSetEn (fun _ _ => trivial) (fun _ _ => trivial))
  | nvicSetPrio level line =>
    exact Prog.faultsAtOnce_of_total (by simp [commandProg, progNvicSetPrio, Access.total])
  | regRd i idx =>
    exact Prog.faultsAtOnce_registerProg fun r => Prog.faultsAtOnce_rd fun v => by simp [Access.afterFirst]
  | regWr i idx imm => exact Prog.faultsAtOnce_registerProg fun r => Prog.faultsAtOnce_wr trivial
  | hset i fld val => exact Prog.faultsAtOnce_of_total (by simp [commandProg, progHset, Access.total])

/-! ## Callback programs (R221) -/

theorem callbackRunner_of_not_dispatch {cmd : Instr} (hd : isDispatch cmd = false) :
    callbackRunner cmd = noCallback := by
  simp [callbackRunner, hd]

/-- A run of accesses keeps what every access keeps, where it ends. -/
theorem runProg_ok_preserves (P : State → Prop) {cmd : Instr} {w : Word} {p : Prog}
    (hp : ∀ a s t v, P s → perform a s = .ok (t, v) → P t) (hs : P s)
    (h : runProg (callbackRunner cmd) w p s = .ok t) : P t := by
  have hall := runProg_all P w hp (fun k i _ hu => callbackRunner_all P hp cmd k i hu) p s hs
  rwa [h] at hall

theorem runProg_noCallback_preserves (P : State → Prop) {w : Word} {p : Prog}
    (hp : ∀ a s t v, P s → perform a s = .ok (t, v) → P t) (hs : P s) (h : runProg noCallback w p s = .ok t) :
    P t := by
  have hall := runProg_all P (onCallback := noCallback) w hp (fun _ _ _ _ => trivial) p s hs
  rwa [h] at hall

theorem runWords_ok_preserves (P : State → Prop) {ws : List Word}
    (hp : ∀ a s t v, P s → perform a s = .ok (t, v) → P t) (hs : P s) (h : runWords ws s = .ok t) : P t := by
  have hall := runWords_all P hp ws s hs
  rwa [h] at hall

theorem perform_keeps_cfg (p : Params) :
    ∀ a u u' v, u.cfg = p → perform a u = .ok (u', v) → u'.cfg = p := by
  intro a u u' v hu hperf
  obtain ⟨hcfg, -⟩ := perform_keeps hperf
  rwa [hcfg]

theorem perform_keeps_fault (f : Option FaultRecord) :
    ∀ a u u' v, u.fault = f → perform a u = .ok (u', v) → u'.fault = f := by
  intro a u u' v hu hperf
  obtain ⟨-, -, -, -, -, -, -, hfault, -⟩ := perform_keeps hperf
  rwa [hfault]

/-- A command that invokes no callback runs to its end or to a fault of its own word; nothing of it is refused. -/
theorem runProg_noCallback_ends (w : Word) {A : Access → Prop} (hcb : ∀ kind i, ¬ A (.callback kind i)) :
    ∀ (p : Prog) (s : State), p.Only A →
      (∃ u, runProg noCallback w p s = .ok u) ∨ ∃ c u, runProg noCallback w p s = .fault c w u := by
  intro p
  induction p with
  | done => exact fun s _ => .inl ⟨s, rfl⟩
  | act a k ih =>
    intro s ⟨ha, hk⟩
    cases hperf : perform a s with
    | error c => exact .inr ⟨c, s, by simp only [runProg, hperf]⟩
    | ok tv =>
      obtain ⟨t, v⟩ := tv
      have hrest := ih v t (hk v)
      cases a
      case callback kind i => exact absurd ha (hcb kind i)
      all_goals simpa only [runProg, hperf] using hrest

/-- What the word of a command does in a callback program is what the command does whole, less the advance of the command index
(R221). -/
theorem exec_of_callback_word {w : Word} {cmd : Instr} (hfault : s.fault = none) (hw : decode w = .ok cmd)
    (hd : isDispatch cmd = false) :
    (∃ u, u.fault = none ∧ runCallbackWord w s = .ok u ∧ exec cmd s = .next u.advance)
      ∨ ∃ c u, runCallbackWord w s = .fault c w u ∧ exec cmd s = .next (u.raise c w) := by
  have hword := encode_of_decode hw
  rw [exec_eq_wholeCommand, callbackRunner_of_not_dispatch hd]
  cases hstart : commandStart cmd s with
  | error c => exact .inr ⟨c, s, by simp [runCallbackWord, wholeCommand, hw, hd, hstart, hfault, hword]⟩
  | ok snap =>
    have hnone : ∀ kind i, ¬ Instr.mayMake cmd (.callback kind i) := by simp [Instr.mayMake, hd]
    obtain ⟨u, hu⟩ | ⟨c, u, hu⟩ := runProg_noCallback_ends w hnone _ s (commandProg_only cmd s.cfg snap)
    · have hu' := runProg_noCallback_preserves (fun u => u.fault = none) (perform_keeps_fault none) hfault hu
      exact .inl ⟨u, hu', by simp [runCallbackWord, wholeCommand, hw, hd, hstart, hfault, hword, hu]⟩
    · exact .inr ⟨c, u, by simp [runCallbackWord, wholeCommand, hw, hd, hstart, hfault, hword, hu]⟩

theorem runWords_cons_of_ok {w : Word} (h : runCallbackWord w s = .ok t) (ws : List Word) :
    runWords (w :: ws) s = runWords ws t := by
  simp [runWords, h]

theorem runWords_cons_of_fault {w w' : Word} {c : FaultCause} (h : runCallbackWord w s = .fault c w' t)
    (ws : List Word) : runWords (w :: ws) s = .fault c w' t := by
  simp [runWords, h]

theorem runCallbackWord_of_illegal {w : Word} {e : DecodeError} (h : decode w = .error e) :
    runCallbackWord w s = .fault (.illegalCommand w) w s := by
  simp [runCallbackWord, h]

/-! ## The dispatcher (R220) -/

section Dispatcher

variable {cb : CallbackRunner} {w : Word} {i : Inst}

theorem runProg_rd (h : s.clocked i = true) (r : Reg) (k : Half → Prog) :
    runProg cb w (.rd i r k) s = runProg cb w (k (s.reg i r)) s := by
  simp [Prog.rd, runProg, perform, State.rd_of_clocked h]

theorem runProg_wr (h : s.clocked i = true) (r : Reg) (v : Half) (k : Prog) :
    runProg cb w (.wr i r v k) s = runProg cb w k (s.setReg i r (storedValue s.cfg r (s.reg i r) v)) := by
  simp [Prog.wr, runProg, perform, State.wr_of_clocked h]

/-- The state after a callback's record (R221). -/
def State.recordCallback (s : State) (kind : CallbackKind) (i : Inst) : State :=
  { s with trace := s.trace ++ [.callback kind i] }

theorem runProg_callback_ok {kind : CallbackKind} (h : cb kind i (s.recordCallback kind i) = .ok t) (k : Prog) :
    runProg cb w (.perform (.callback kind i) k) s = runProg cb w k t := by
  rw [State.recordCallback] at h
  simp [Prog.perform, runProg, Machine.perform, h]

theorem runProg_callback_fault {kind : CallbackKind} {c : FaultCause} {w' : Word}
    (h : cb kind i (s.recordCallback kind i) = .fault c w' t) (k : Prog) :
    runProg cb w (.perform (.callback kind i) k) s = .fault c w' t := by
  rw [State.recordCallback] at h
  simp [Prog.perform, runProg, Machine.perform, h]

theorem exec_irqDispatch_of_ok (hready : s.ready i)
    (h : runProg runCallbackProgram (encode (.irqDispatch i)) (progIrqDispatch i) s = .ok t) :
    exec (.irqDispatch i) s = .next t.advance := by
  obtain ⟨hfault, hinst, -⟩ := hready
  simp [exec, execIrqDispatch, startIrqDispatch, wholeCommand, hfault, startInst_of_hasInst hinst, h]

theorem exec_irqDispatch_of_fault {c : FaultCause} (hready : s.ready i)
    (h : runProg runCallbackProgram (encode (.irqDispatch i)) (progIrqDispatch i) s = .fault c w t) :
    exec (.irqDispatch i) s = .next (t.raise c w) := by
  obtain ⟨hfault, hinst, -⟩ := hready
  simp [exec, execIrqDispatch, startIrqDispatch, wholeCommand, hfault, startInst_of_hasInst hinst, h]

/-- The state in which the update callback's program starts: UIF cleared and the record made (R220, step 3). -/
def State.updateServed (s : State) (i : Inst) : State :=
  (s.setReg i .sr (s.reg i .sr &&& 0xFFFE#16)).recordCallback .periodElapsed i

/-- With UIF seen, the dispatcher clears it and goes on with the update callback. -/
theorem runProg_progIrqDispatch_of_update (hready : s.ready i) (hnamed : s.namedBitsOnly)
    (hseen : (s.reg i .sr).getLsbD 0 = true) :
    runProg cb w (progIrqDispatch i) s
      = runProg cb w (.perform (.callback .periodElapsed i) (captureStep i (s.reg i .sr)))
          (s.setReg i .sr (s.reg i .sr &&& 0xFFFE#16)) := by
  obtain ⟨-, -, hclk⟩ := hready
  rw [progIrqDispatch, runProg_rd hclk, updateSeen, if_pos hseen, runProg_wr hclk, storedValue_sr,
    srWrite_of_within (hnamed i .sr)]

theorem runProg_progIrqDispatch_of_no_update (hready : s.ready i) (hclear : ¬ (s.reg i .sr).getLsbD 0 = true) :
    runProg cb w (progIrqDispatch i) s = runProg cb w (captureStep i (s.reg i .sr)) s := by
  obtain ⟨-, -, hclk⟩ := hready
  rw [progIrqDispatch, runProg_rd hclk, updateSeen, if_neg hclear]

/-- The dispatcher up to its capture step: the update callback's program has run to its end, if there was one. -/
theorem runProg_progIrqDispatch_of_ok (hready : s.ready i) (hnamed : s.namedBitsOnly)
    (h : if (s.reg i .sr).getLsbD 0 = true then
        runWords (s.cfg.callbackProgram .periodElapsed i) (s.updateServed i) = .ok t
      else t = s) :
    runProg runCallbackProgram w (progIrqDispatch i) s
      = runProg runCallbackProgram w (captureStep i (s.reg i .sr)) t ∧ t.cfg = s.cfg := by
  split at h
  · rename_i hseen
    exact ⟨(runProg_progIrqDispatch_of_update hready hnamed hseen).trans (runProg_callback_ok h _),
      runWords_ok_preserves (s := s.updateServed i) (fun u => u.cfg = s.cfg) (perform_keeps_cfg s.cfg) rfl h⟩
  · rename_i hclear
    subst h
    exact ⟨runProg_progIrqDispatch_of_no_update hready hclear, rfl⟩

theorem runProg_captureStep_of_fault {seen : Half} {c : FaultCause} {w' : Word} (hseen : seen.extractLsb' 1 4 ≠ 0#4)
    (h : runWords (s.cfg.callbackProgram .captureEvent i) (s.recordCallback .captureEvent i) = .fault c w' t) :
    runProg runCallbackProgram w (captureStep i seen) s = .fault c w' t := by
  rw [captureStep, captureSeen, if_pos (by simpa using hseen)]
  exact runProg_callback_fault h _

theorem runProg_captureStep_of_ok {seen : Half}
    (h : if seen.extractLsb' 1 4 ≠ 0#4 then
        runWords (s.cfg.callbackProgram .captureEvent i) (s.recordCallback .captureEvent i) = .ok t
      else t = s) :
    runProg runCallbackProgram w (captureStep i seen) s = .ok t := by
  rw [captureStep, captureSeen]
  split at h
  · rename_i hseen
    rw [if_pos (by simpa using hseen)]
    exact runProg_callback_ok h _
  · rename_i hclear
    rw [if_neg (by simpa using hclear), h]
    rfl

end Dispatcher

end Sys2Proof.Machine

namespace Sys2Proof.Proofs

open Sys2Proof Sys2Proof.Machine

/-- Settles O38: no other command makes an access that writes `result`. -/
theorem onlyReadsWriteTheResult : Obligations.OnlyReadsWriteTheResult := by
  intro cmd s t hd hicRead hregRd h
  have hkeeps : ∀ a, Instr.mayMake cmd a → a.keepsResult := by
    intro a ha
    cases a <;> simp_all [Instr.mayMake, Access.keepsResult]
  refine exec_only hd (fun snap => (commandProg_only cmd s.cfg snap).mono hkeeps)
    (P := fun u => u.result = s.result) ?_ ?_ (fun _ _ _ hu => hu) rfl h
  · exact fun _ _ _ _ ha hu hperf => (perform_result ha hperf).trans hu
  · exact fun u hu => by simpa using hu

/-- Settles O43: a check faults before every access, and an access that faults is the command's first. -/
theorem faultingCommandHasMadeNoAccess : Obligations.FaultingCommandHasMadeNoAccess := by
  intro cmd s t r hd h hfault
  have hraise : ∀ c, t = s.raise c (encode cmd) →
      r.word = encode cmd ∧ r.context = s.faultContext ∧ t = { s with fault := some r } := by
    rintro c rfl
    obtain rfl : (⟨c, encode cmd, s.faultContext⟩ : FaultRecord) = r := by simpa using hfault
    exact ⟨rfl, rfl, rfl⟩
  rw [exec_eq_wholeCommand] at h
  obtain ⟨hnone, ⟨c, -, rfl⟩ | ⟨snap, u, -, hu, rfl⟩ | ⟨snap, c, w, u, -, hu, rfl⟩⟩ := wholeCommand_cases h
  · exact hraise c rfl
  · have hu' := runProg_ok_preserves (fun u => u.fault = none) (perform_keeps_fault none) hnone hu
    rw [State.advance_fault, hu'] at hfault
    cases hfault
  · rw [callbackRunner_of_not_dispatch hd] at hu
    obtain ⟨rfl, rfl⟩ := commandProg_faultsAtOnce hd snap _ _ _ _ hu
    exact hraise c rfl

/-- Settles O32: the dispatcher's run is its update step and then its capture step, and a callback word's run is its command's
meaning. -/
theorem irqDispatchRunsItsCallbackProgramsInOrder :
    Obligations.IrqDispatchRunsItsCallbackProgramsInOrder := by
  refine ⟨fun i s hready hnamed => ⟨fun hseen c w u hrun => ?_, fun s₁ hs₁ => ?_⟩, fun s => rfl,
    fun w ws e s he => runWords_cons_of_fault (runCallbackWord_of_illegal he) ws, fun w cmd s hfault hw hd => ?_⟩
  · exact exec_irqDispatch_of_fault hready
      ((runProg_progIrqDispatch_of_update hready hnamed hseen).trans (runProg_callback_fault hrun _))
  · obtain ⟨hrest, hcfg⟩ := runProg_progIrqDispatch_of_ok (w := encode (.irqDispatch i)) hready hnamed hs₁
    rw [← hcfg]
    refine ⟨fun hseen c w u hrun => ?_, fun s₂ hs₂ => ?_⟩
    · exact exec_irqDispatch_of_fault hready (hrest.trans (runProg_captureStep_of_fault hseen hrun))
    · exact exec_irqDispatch_of_ok hready (hrest.trans (runProg_captureStep_of_ok hs₂))
  · obtain ⟨u, hu, hrun, hexec⟩ | ⟨c, u, hrun, hexec⟩ := exec_of_callback_word hfault hw hd
    · refine ⟨_, hexec, fun _ => ⟨u, rfl, runWords_cons_of_ok hrun⟩, fun hne => absurd ?_ hne⟩
      simpa using hu
    · refine ⟨_, hexec, fun hnone => ?_, fun _ => ⟨c, u, rfl, runWords_cons_of_fault hrun⟩⟩
      cases hnone

end Sys2Proof.Proofs

/-!
PROOF. Commands one access at a time (R51, R84, R310): what a command in flight does next, and that its steps in a row are the
command run whole, callback programs included (R220, R221).
-/
namespace Sys2Proof.Machine

open Sys2Proof

variable {s t : State}

/-! ## The current context -/

@[simp] theorem State.setCurrent_setCurrent (c d : Context) : (s.setCurrent c).setCurrent d = s.setCurrent d := by
  cases h : s.active <;> simp [State.setCurrent, h]

@[simp] theorem State.setCurrent_current (s : State) : s.setCurrent s.current = s := by
  cases s with
  | mk cfg prog schedule timers handles clkHS clkLS enable prio pending active =>
    cases active <;> rfl

theorem State.current_congr (hactive : t.active = s.active) (hbase : t.base = s.base) : t.current = s.current := by
  simp [State.current, hactive, hbase]

/-- No atomic access touches the current context. -/
theorem perform_keeps_current (c : Context) :
    ∀ a u u' v, u.current = c → perform a u = .ok (u', v) → u'.current = c := by
  intro a u u' v hu hperf
  obtain ⟨-, -, -, -, hactive, hbase, -⟩ := perform_keeps hperf
  rwa [State.current_congr hactive hbase]

@[simp] theorem State.clk_setCurrent (c : Context) (b : Bus) : (s.setCurrent c).clk b = s.clk b := by
  cases b <;> simp [State.clk]

@[simp] theorem State.prioWord_setCurrent (c : Context) (n : Nat) : (s.setCurrent c).prioWord n = s.prioWord n := by
  simp [State.prioWord]

@[simp] theorem State.clocked_setCurrent (c : Context) (i : Inst) : (s.setCurrent c).clocked i = s.clocked i := by
  simp [State.clocked]

/-- The current context goes on with its command in flight, at the base level and in a frame. -/
theorem contextStep_of_slot {f : InFlight} (h : s.current = ⟨some f, none⟩) :
    contextStep s = commandAccess f (encode f.cmd) s := by
  simp [contextStep, h]

/-- A step of a command in flight that makes the access `a`, no callback. -/
theorem commandAccess_of_perform {f : InFlight} {w : Word} {a : Access} {k : Word → Prog} {v : Word}
    (hrest : f.rest s.cfg = .act a k) (ha : ∀ kind i, a ≠ .callback kind i) (hperf : perform a s = .ok (t, v)) :
    commandAccess f w s = .next (t.setCurrent ⟨some (f.after a v), none⟩) := by
  cases a
  case callback kind i => exact absurd rfl (ha kind i)
  all_goals simp only [commandAccess, hrest, hperf]

theorem contextStep_of_perform {f : InFlight} {a : Access} {k : Word → Prog} {v : Word}
    (hcur : s.current = ⟨some f, none⟩) (hrest : f.rest s.cfg = .act a k)
    (ha : ∀ kind i, a ≠ .callback kind i) (hperf : perform a s = .ok (t, v)) :
    contextStep s = .next (t.setCurrent ⟨some (f.after a v), none⟩) :=
  (contextStep_of_slot hcur).trans (commandAccess_of_perform hrest ha hperf)

/-! ## What stands next in the commands of R84 -/

theorem Channel.num_of_ofRaw : ∀ (ch : BitVec 3), ∀ c ∈ Channel.ofRaw ch, c.num = ch.toNat := by decide

/-- IC_START_IT after its first read: the write of IER from what that read gave (R181). -/
theorem rest_icStartIt_after_read {ch : BitVec 3} {c : Channel} (hch : Channel.ofRaw ch = some c) (p : Params)
    (i : Inst) (old : Half) (snap : Snapshot) :
    ∃ k, InFlight.rest ⟨.icStartIt i ch, snap, 1, [old.setWidth 32]⟩ p
      = .act (.wr i .ier (old ||| (1#16 <<< ch.toNat))) k := by
  have hold : (old.setWidth 32).setWidth 16 = old := by simp
  have hrest : InFlight.rest ⟨.icStartIt i ch, snap, 1, [old.setWidth 32]⟩ p
      = (Prog.wr i .ier ((old.setWidth 32).setWidth 16 ||| (1#16 <<< c.num)) <|
          .rd i .cr fun u => .wr i .cr (u ||| 0x0001#16) .done) := by
    simp only [InFlight.rest, commandProg, progIcStartIt, channelProg, hch]
    rfl
  rw [hrest, hold, Channel.num_of_ofRaw ch c hch]
  exact ⟨_, rfl⟩

/-- NVIC_SET_PRIO after its read (R204). -/
theorem rest_nvicSetPrio_after_read (p : Params) (level : BitVec 8) (line : BitVec 16) (old : Word)
    (snap : Snapshot) :
    ∃ k, InFlight.rest ⟨.nvicSetPrio level line, snap, 1, [old]⟩ p
      = .act (.wrIPR (lineSlot line.toNat) (old ||| prioPattern level line.toNat)) k :=
  ⟨_, rfl⟩

/-- CLK_EN after its read (R110). -/
theorem rest_clkEn_after_read {p : Params} {i : Inst} (hi : p.hasInst i = true) (old : Word) (snap : Snapshot) :
    ∃ k, InFlight.rest ⟨.clkEn i, snap, 1, [old]⟩ p = .act (.wrC (p.busOf i) (old ||| (1#32 <<< p.bitOf i))) k := by
  simp only [InFlight.rest, commandProg, progClkEn, hi, if_true]
  exact ⟨_, rfl⟩

/-- BASE_INIT after its clock accesses: the write of PSC from its snapshot (R121). -/
theorem rest_baseInit_after_clock (p : Params) (i : Inst) (c : Word) (snap : Snapshot) :
    ∃ k, InFlight.rest ⟨.baseInit i, snap, 2, [c]⟩ p = .act (.wr i .psc snap.prescaler) k :=
  ⟨_, rfl⟩

theorem State.prioWord_wrIPR_self {n : Nat} (h : n < s.prio.length) (v : Word) :
    (s.wrIPR n v).prioWord n = v &&& 0xF0F0F0F0#32 := by
  simp [State.prioWord, State.wrIPR, h]

theorem State.prioWord_wrIPR_ne {n m : Nat} (h : m ≠ n) (v : Word) : (s.wrIPR n v).prioWord m = s.prioWord m := by
  simp [State.prioWord, State.wrIPR, List.getElem?_set_ne h.symm]

/-- The step that writes a register of a clocked timer leaves every other register. -/
theorem contextStep_wr {f : InFlight} {i : Inst} {r : Reg} {x : Half} {k : Word → Prog} (hclk : s.clocked i = true)
    (hcur : s.current = ⟨some f, none⟩) (hrest : f.rest s.cfg = .act (.wr i r x) k) :
    ∃ t, contextStep s = .next t ∧ t.reg i r = storedValue s.cfg r (s.reg i r) x
      ∧ ∀ j q, (j ≠ i ∨ q ≠ r) → t.reg j q = s.reg j q := by
  have hperf : perform (.wr i r x) s = .ok (s.setReg i r (storedValue s.cfg r (s.reg i r) x), 0) := by
    rw [perform, State.wr_of_clocked hclk]
  refine ⟨_, contextStep_of_perform hcur hrest (by simp) hperf, by simp, fun j q hne => ?_⟩
  rw [State.reg_setCurrent, State.reg_setReg_ne _ _ (hne.imp Ne.symm Ne.symm)]

/-- The handle snapshot of BASE_INIT with a complete handle (R120, R121). -/
theorem startBaseInit_of_complete {i : Inst} {p a : Half} {d : Direction} (hi : s.cfg.hasInst i = true)
    (hp : (s.handle i).prescaler = some p) (ha : (s.handle i).period = some a)
    (hd : (s.handle i).direction = some d) :
    startBaseInit i s = .ok { prescaler := p, period := a, direction := d } := by
  simp [startBaseInit, checkInst, hi, snapBase, needField, hp, ha, hd]
  rfl

/-! ## The handles are not looked at again -/

/-- The state with other handles. -/
def State.withHandles (s : State) (hs : Vector Handle 8) : State := { s with handles := hs }

/-- An access that does not write a handle field. -/
def Access.keepsHandles : Access → Prop
  | .setField _ _ _ => False
  | .rd _ _ | .wr _ _ _ | .rdC _ | .wrC _ _ | .wrISER _ _ | .wrICER _ _ | .rdIPR _ | .wrIPR _ _ => True
  | .rdResult _ _ | .setResult _ | .callback _ _ => True

theorem State.rd_withHandles (hs : Vector Handle 8) (i : Inst) (r : Reg) : (s.withHandles hs).rd i r = s.rd i r := rfl

theorem State.wr_withHandles (hs : Vector Handle 8) (i : Inst) (r : Reg) (v : Half) :
    (s.withHandles hs).wr i r v = (s.wr i r v).map (·.withHandles hs) := by
  have hclk : (s.withHandles hs).clocked i = s.clocked i := rfl
  have hcfg : (s.withHandles hs).cfg = s.cfg := rfl
  rw [State.wr, State.wr, hclk, hcfg]
  split
  · rfl
  · split <;> rfl

/-- Such an access does the same whatever the handles hold, and leaves them. -/
theorem perform_withHandles {a : Access} (ha : a.keepsHandles) (hs : Vector Handle 8) :
    perform a (s.withHandles hs) = (perform a s).map (Prod.map (·.withHandles hs) id) := by
  cases a with
  | setField i fld val => exact ha.elim
  | rd i r =>
    rw [perform, perform, State.rd_withHandles]
    cases s.rd i r <;> rfl
  | rdResult i r =>
    rw [perform, perform, State.rd_withHandles]
    cases s.rd i r <;> rfl
  | wr i r v =>
    rw [perform, perform, State.wr_withHandles]
    cases s.wr i r v <;> rfl
  | wrC b v => cases b <;> rfl
  | rdC b => cases b <;> rfl
  | wrISER b v => rfl
  | wrICER b v => rfl
  | rdIPR n => rfl
  | wrIPR n v => rfl
  | setResult v => rfl
  | callback kind i => rfl

theorem State.setCurrent_withHandles (hs : Vector Handle 8) (c : Context) :
    (s.withHandles hs).setCurrent c = (s.setCurrent c).withHandles hs := by
  cases h : s.active <;> simp [State.setCurrent, State.withHandles, h]

theorem State.advance_withHandles (hs : Vector Handle 8) :
    (s.withHandles hs).advance = s.advance.withHandles hs := by
  cases h : s.active <;> simp [State.advance, State.withHandles, h]

theorem Prog.Only.resume {A : Access → Prop} {p : Prog} (h : p.Only A) (n : Nat) (ts : List Word) :
    (p.resume n ts).Only A := by
  induction p generalizing n ts with
  | done => cases n <;> trivial
  | act a k ih =>
    obtain ⟨ha, hk⟩ := h
    cases n with
    | zero => exact ⟨ha, hk⟩
    | succ n =>
      cases hreads : a.reads with
      | false =>
        rw [Prog.resume_act_of_not_reads hreads]
        exact ih _ (hk _) _ _
      | true =>
        cases ts with
        | nil => simp [Prog.resume, hreads]
        | cons v ts =>
          rw [Prog.resume_act_of_reads hreads]
          exact ih _ (hk _) _ _

/-- What is left of a command in flight other than HSET writes no handle field (R230). -/
theorem InFlight.rest_keepsHandles {f : InFlight} (h : ∀ i fld v, f.cmd ≠ .hset i fld v) (p : Params) :
    (f.rest p).Only Access.keepsHandles := by
  refine Prog.Only.resume ((commandProg_only f.cmd p f.snap).mono fun a ha => ?_) _ _
  cases a <;> simp_all [Instr.mayMake, Access.keepsHandles]

theorem commandAccess_withHandles {f : InFlight} {w : Word} (hf : (f.rest s.cfg).Only Access.keepsHandles)
    (hs : Vector Handle 8) (h : commandAccess f w s = .next t) :
    commandAccess f w (s.withHandles hs) = .next (t.withHandles hs) := by
  have hcfg : (s.withHandles hs).cfg = s.cfg := rfl
  cases hrest : f.rest s.cfg with
  | done =>
    simp only [commandAccess, hcfg, hrest, Host.Outcome.next.injEq] at h ⊢
    rw [← h, State.completeCommand, State.setCurrent_withHandles, State.advance_withHandles]
    rfl
  | act a k =>
    rw [hrest] at hf
    have hother := perform_withHandles (s := s) hf.1 hs
    cases hperf : perform a s with
    | error c =>
      rw [hperf] at hother
      simp only [commandAccess, hcfg, hrest, hperf, hother, Except.map, Host.Outcome.next.injEq] at h ⊢
      rw [← h]
      rfl
    | ok uv =>
      obtain ⟨u, v⟩ := uv
      rw [hperf] at hother
      cases a
      case callback kind i =>
        simp only [commandAccess, hcfg, hrest, hperf, hother, Except.map, Prod.map] at h ⊢
        split at h <;> simp_all [State.setCurrent_withHandles]
      all_goals
        simp only [commandAccess, hcfg, hrest, hperf, hother, Except.map, Prod.map, Host.Outcome.next.injEq,
          State.setCurrent_withHandles, id] at h ⊢
        rw [← h]

end Sys2Proof.Machine

namespace Sys2Proof.Proofs

open Sys2Proof Sys2Proof.Machine

/-- Settles O45: each clause is the next access of the command in flight, computed from its temporaries and its snapshot. -/
theorem readModifyWriteLosesAWriteBetween : Obligations.ReadModifyWriteLosesAWriteBetween := by
  refine ⟨?icStartIt, ?nvicSetPrio, ?clkEn, ?baseInitStart, ?baseInitWrite, ?handles⟩
  case icStartIt =>
    intro i ch c old snap s hch hclk hcur
    obtain ⟨k, hrest⟩ := rest_icStartIt_after_read hch s.cfg i old snap
    exact contextStep_wr hclk hcur hrest
  case nvicSetPrio =>
    intro level line old snap s hlength hcur
    obtain ⟨k, hrest⟩ := rest_nvicSetPrio_after_read s.cfg level line old snap
    refine ⟨_, contextStep_of_perform hcur hrest (by simp) rfl, ?_, fun n hn => ?_⟩
    · rw [State.prioWord_setCurrent]
      exact State.prioWord_wrIPR_self hlength _
    · rw [State.prioWord_setCurrent]
      exact State.prioWord_wrIPR_ne hn _
  case clkEn =>
    intro i old snap s hi hcur
    obtain ⟨k, hrest⟩ := rest_clkEn_after_read hi old snap
    refine ⟨_, contextStep_of_perform hcur hrest (by simp) rfl, by simp, fun b hb => ?_⟩
    rw [State.clk_setCurrent, State.clk_setClk_ne _ _ hb.symm]
  case baseInitStart =>
    intro i p a d w s _ hb hf hw hi hp ha hd
    rw [contextStep_start hb hf hw (startBaseInit_of_complete hi hp ha hd), commandAccess_of_perform rfl (by simp) rfl,
      State.setCurrent_of_base _ (State.active_of_betweenCommands hb)]
    rfl
  case baseInitWrite =>
    intro i c snap s hclk hcur
    obtain ⟨k, hrest⟩ := rest_baseInit_after_clock s.cfg i c snap
    obtain ⟨t, hstep, hpsc, -⟩ := contextStep_wr hclk hcur hrest
    exact ⟨t, hstep, by simpa using hpsc⟩
  case handles =>
    intro f hs s t hcur hcmd h
    rw [contextStep_of_slot hcur] at h
    rw [contextStep_of_slot (s := { s with handles := hs }) hcur]
    exact commandAccess_withHandles (InFlight.rest_keepsHandles hcmd s.cfg) hs h

end Sys2Proof.Proofs

/-!
PROOF. A command run whole is its steps in a row (R84, R310), callback programs included (R220, R221).
-/
namespace Sys2Proof.Machine

open Sys2Proof

variable {s t u : State}

/-! ## Runs of accesses do not look at the current context -/

/-- The frames after the content of the current context is replaced. -/
def Context.inFrames (c : Context) : List Frame → List Frame
  | [] => []
  | f :: fs => { f with ctx := c } :: fs

/-- The base level's context after the content of the current context is replaced. -/
def Context.inBase (c : Context) (base : Context) : List Frame → Context
  | [] => c
  | _ :: _ => base

/-- Replacing the current context writes the frames and the base level's context, and reads nothing else. -/
theorem State.setCurrent_eq (c : Context) (s : State) :
    s.setCurrent c = { s with active := c.inFrames s.active, base := c.inBase s.base s.active } := by
  cases s with
  | mk cfg prog schedule timers handles clkHS clkLS enable prio pending active =>
    cases active <;> rfl

theorem State.rd_setCurrent (c : Context) (i : Inst) (r : Reg) : (s.setCurrent c).rd i r = s.rd i r := by
  rw [State.setCurrent_eq]
  rfl

theorem State.wr_setCurrent (c : Context) (i : Inst) (r : Reg) (v : Half) :
    (s.setCurrent c).wr i r v = (s.wr i r v).map (·.setCurrent c) := by
  have hset (x : Half) : (s.setCurrent c).setReg i r x = (s.setReg i r x).setCurrent c := by
    simp only [State.setCurrent_eq]
    rfl
  rw [State.wr, State.wr, State.clocked_setCurrent, State.setCurrent_cfg, State.reg_setCurrent, hset]
  split
  · rfl
  · split <;> rfl

/-- An access does the same whatever the current context holds. -/
theorem perform_setCurrent (c : Context) (a : Access) (s : State) :
    perform a (s.setCurrent c) = (perform a s).map (Prod.map (·.setCurrent c) id) := by
  cases a with
  | rd i r =>
    rw [perform, perform, State.rd_setCurrent]
    cases s.rd i r <;> rfl
  | rdResult i r =>
    rw [perform, perform, State.rd_setCurrent]
    cases s.rd i r with
    | error _ => rfl
    | ok _ => simp only [Except.map, Prod.map, State.setCurrent_eq, id]
  | wr i r v =>
    rw [perform, perform, State.wr_setCurrent]
    cases s.wr i r v <;> rfl
  | rdC b => simp [perform, Except.map]
  | rdIPR n => simp [perform, Except.map]
  | wrC b v => cases b <;> simp only [perform, Except.map, Prod.map, State.setCurrent_eq] <;> rfl
  | wrISER b v => simp only [perform, Except.map, Prod.map, State.setCurrent_eq]; rfl
  | wrICER b v => simp only [perform, Except.map, Prod.map, State.setCurrent_eq]; rfl
  | wrIPR n v => simp only [perform, Except.map, Prod.map, State.setCurrent_eq]; rfl
  | setResult v => simp only [perform, Except.map, Prod.map, State.setCurrent_eq]; rfl
  | setField i fld val => simp only [perform, Except.map, Prod.map, State.setCurrent_eq]; rfl
  | callback kind i => simp only [perform, Except.map, Prod.map, State.setCurrent_eq]; rfl

theorem commandStart_setCurrent (c : Context) (cmd : Instr) (s : State) :
    commandStart cmd (s.setCurrent c) = commandStart cmd s := by
  rw [State.setCurrent_eq]
  cases cmd <;> rfl

/-- The same run, ended in another state. -/
def Run.map (g : State → State) : Run → Run
  | .ok s => .ok (g s)
  | .fault c w s => .fault c w (g s)
  | .refused r => .refused r

theorem runProg_setCurrent (c : Context) {cb : CallbackRunner} (w : Word)
    (hcb : ∀ k i s, cb k i (s.setCurrent c) = (cb k i s).map (·.setCurrent c)) (p : Prog) (s : State) :
    runProg cb w p (s.setCurrent c) = (runProg cb w p s).map (·.setCurrent c) := by
  induction p generalizing s with
  | done => rfl
  | act a k ih =>
    simp only [runProg, perform_setCurrent]
    cases perform a s with
    | error e => rfl
    | ok uv =>
      obtain ⟨u, v⟩ := uv
      cases a
      case callback kind i =>
        simp only [Except.map, Prod.map, hcb]
        cases cb kind i u with
        | ok u' => exact ih v u'
        | fault _ _ _ => rfl
        | refused _ => rfl
      all_goals exact ih v u

theorem runCallbackWord_setCurrent (c : Context) (w : Word) (s : State) :
    runCallbackWord w (s.setCurrent c) = (runCallbackWord w s).map (·.setCurrent c) := by
  unfold runCallbackWord
  rw [State.setCurrent_cfg]
  split
  · rfl
  · rw [commandStart_setCurrent]
    split
    · rfl
    · split
      · rfl
      · exact runProg_setCurrent c w (fun _ _ _ => rfl) _ s

theorem runWords_setCurrent (c : Context) (ws : List Word) (s : State) :
    runWords ws (s.setCurrent c) = (runWords ws s).map (·.setCurrent c) := by
  induction ws generalizing s with
  | nil => rfl
  | cons w ws ih =>
    simp only [runWords, runCallbackWord_setCurrent]
    cases runCallbackWord w s with
    | ok u => exact ih u
    | fault _ _ _ => rfl
    | refused _ => rfl

theorem callbackRunner_setCurrent (c : Context) (cmd : Instr) (k : CallbackKind) (i : Inst) (s : State) :
    callbackRunner cmd k i (s.setCurrent c) = (callbackRunner cmd k i s).map (·.setCurrent c) := by
  unfold callbackRunner
  split
  · rw [runCallbackProgram, State.setCurrent_cfg]
    exact runWords_setCurrent c _ s
  · rfl

/-- A callback that runs to its end is the run of its callback program. -/
theorem runWords_of_callbackRunner {cmd : Instr} {k : CallbackKind} {i : Inst} (h : callbackRunner cmd k i s = .ok t) :
    runWords (s.cfg.callbackProgram k i) s = .ok t := by
  unfold callbackRunner at h
  split at h
  · exact h
  · cases h

/-! ## Steps of the current context in a row -/

/-- Some number of steps of the current context leads from `s` to `t`. -/
def State.LeadsTo (s t : State) : Prop := ∃ n, accessSteps n s = .next t

theorem State.LeadsTo.refl (s : State) : s.LeadsTo s := ⟨0, rfl⟩

theorem State.LeadsTo.head (h : contextStep s = .next t) (htu : t.LeadsTo u) : s.LeadsTo u := by
  obtain ⟨n, hn⟩ := htu
  exact ⟨n + 1, (accessSteps_succ h n).trans hn⟩

theorem State.LeadsTo.single (h : contextStep s = .next t) : s.LeadsTo t := .head h (.refl t)

theorem accessSteps_add {n : Nat} (h : accessSteps n s = .next t) (m : Nat) :
    accessSteps (n + m) s = accessSteps m t := by
  induction n generalizing s with
  | zero =>
    cases h
    rw [Nat.zero_add]
  | succ n ih =>
    rw [Nat.succ_add]
    simp only [accessSteps] at h ⊢
    split at h
    · exact ih h
    · cases h
    · cases h

theorem State.LeadsTo.trans (hst : s.LeadsTo t) (htu : t.LeadsTo u) : s.LeadsTo u := by
  obtain ⟨n, hn⟩ := hst
  obtain ⟨m, hm⟩ := htu
  exact ⟨n + m, (accessSteps_add hn m).trans hm⟩

/-! ## A callback program, step by step (R221) -/

theorem perform_value_of_not_reads {a : Access} {v : Word} (ha : a.reads = false) (h : perform a s = .ok (t, v)) :
    v = 0 := by
  cases a <;> simp only [Access.reads, Bool.true_eq_false] at ha <;> simp only [perform] at h
  case wr i r x => split at h <;> simp_all
  case rdResult i r => split at h <;> simp_all
  all_goals simp_all

/-- After an access the command in flight stands at what follows the value that was read. -/
theorem InFlight.StandsAt.after_perform {f : InFlight} {p : Params} {a : Access} {k : Word → Prog} {v : Word}
    (hf : f.StandsAt p (.act a k)) (h : perform a s = .ok (t, v)) : (f.after a v).StandsAt p (k v) := by
  have hafter := hf.after v
  cases ha : a.reads with
  | true => simpa [ha] using hafter
  | false =>
    obtain rfl := perform_value_of_not_reads ha h
    simpa using hafter

theorem perform_keeps_active (fs : List Frame) :
    ∀ a u u' v, u.active = fs → perform a u = .ok (u', v) → u'.active = fs := by
  intro a u u' v hu hperf
  obtain ⟨-, -, -, -, hactive, -⟩ := perform_keeps hperf
  rwa [hactive]

/-- The end of a callback's command looks at the callback's index, not at its slot. -/
theorem State.callbackCommandDone_setCurrent {c : Context} (hslot : c.slot = s.current.slot) (run : CallbackRun)
    (g : Option InFlight) :
    (s.setCurrent c).callbackCommandDone { run with slot := g } = s.callbackCommandDone run := by
  simp [State.callbackCommandDone, State.leaveCallback, hslot]

theorem contextStep_of_callback {c : Context} {run : CallbackRun} (h : s.current = c) (hrun : c.callback = some run) :
    contextStep s = callbackStep run s := by
  simp [contextStep, h, hrun]

/-- A command of a callback program, once started, runs to its completion (R221, R10). -/
theorem leadsTo_callbackCommandDone {w w' : Word} (p : Prog) {s : State} {run : CallbackRun} {f : InFlight}
    (hf : f.StandsAt s.cfg p) (hstep : contextStep s = callbackAccess run f w' s)
    (hrun : runProg noCallback w p s = .ok u) : s.LeadsTo (u.callbackCommandDone run) := by
  induction p generalizing s run f w' u with
  | done =>
    cases hrun
    refine .single ?_
    simp only [hstep, callbackAccess, hf.rest_eq]
  | act a k ih =>
    simp only [runProg] at hrun
    split at hrun
    · cases hrun
    · rename_i s₁ v hperf
      split at hrun
      · cases hrun
      · obtain ⟨hcfg, -⟩ := perform_keeps hperf
        have hf' : (f.after a v).StandsAt s.cfg (k v) := hf.after_perform hperf
        let run' : CallbackRun := { run with slot := some (f.after a v) }
        let c : Context := { s₁.current with callback := some run' }
        have hnext : contextStep s = .next (s₁.setCurrent c) := by
          simp only [hstep, callbackAccess, hf.rest_eq, hperf]
          rfl
        have hrun' : runProg noCallback w (k v) (s₁.setCurrent c) = .ok (u.setCurrent c) := by
          rw [runProg_setCurrent c w (fun _ _ _ => rfl), hrun]
          rfl
        have hcur : u.current = s₁.current :=
          runProg_noCallback_preserves (fun x => x.current = s₁.current) (perform_keeps_current _) rfl hrun
        have hrest := ih v (run := run') (w' := encode (f.after a v).cmd)
          (by rwa [State.setCurrent_cfg, hcfg]) (contextStep_of_callback (State.current_setCurrent _ c) rfl) hrun'
        rw [State.callbackCommandDone_setCurrent (by rw [hcur])] at hrest
        exact .head hnext hrest

/-- What it says of a callback program's word that its run ends. -/
theorem runCallbackWord_ok {w : Word} (h : runCallbackWord w s = .ok t) :
    ∃ cmd snap, decode w = .ok cmd ∧ isDispatch cmd = false ∧ commandStart cmd s = .ok snap
      ∧ runProg noCallback w (commandProg cmd s.cfg snap) s = .ok t := by
  unfold runCallbackWord at h
  split at h
  · cases h
  · rename_i cmd hw
    split at h
    · cases h
    · rename_i hd
      split at h
      · cases h
      · rename_i snap hstart
        exact ⟨cmd, snap, hw, by simpa using hd, hstart, h⟩

theorem runWords_cons_ok {w : Word} {ws : List Word} (h : runWords (w :: ws) s = .ok u) :
    ∃ t, runCallbackWord w s = .ok t ∧ runWords ws t = .ok u := by
  cases hw : runCallbackWord w s <;> simp_all [runWords]

/-- One word of a callback program, from its start to its completion. -/
theorem leadsTo_of_runCallbackWord {w : Word} {run : CallbackRun} {slot : Option InFlight}
    (hcur : s.current = ⟨slot, some run⟩) (hslot : run.slot = none)
    (hw : (s.cfg.callbackProgram run.kind run.inst)[run.index]? = some w) (h : runCallbackWord w s = .ok t) :
    s.LeadsTo (t.callbackCommandDone run) := by
  obtain ⟨cmd, snap, hdec, hd, hstart, hrun⟩ := runCallbackWord_ok h
  have hstep : contextStep s = callbackAccess run ⟨cmd, snap, 0, []⟩ w s := by
    rw [contextStep_of_callback hcur rfl]
    simp [callbackStep, hslot, hw, hdec, hd, hstart]
  exact leadsTo_callbackCommandDone _ (InFlight.standsAt_start cmd snap s.cfg) hstep hrun

/-- A callback program, from its next word to its end, leaves the dispatcher's own slot as it was. -/
theorem leadsTo_of_runWords {kind : CallbackKind} {i : Inst} {slot : Option InFlight} (ws : List Word) {s u : State}
    {index : Nat} (hws : (s.cfg.callbackProgram kind i).drop index = ws) (hne : ws ≠ [])
    (hcur : s.current = ⟨slot, some ⟨kind, i, index, none⟩⟩) (h : runWords ws s = .ok u) :
    s.LeadsTo (u.setCurrent ⟨slot, none⟩) := by
  induction ws generalizing s u index with
  | nil => exact absurd rfl hne
  | cons w ws ih =>
    obtain ⟨t, hword, hrest⟩ := runWords_cons_ok h
    have hw : (s.cfg.callbackProgram kind i)[index]? = some w := by
      rw [← List.head?_drop, hws, List.head?_cons]
    have hdrop : (s.cfg.callbackProgram kind i).drop (index + 1) = ws := by
      rw [← List.tail_drop, hws, List.tail_cons]
    obtain ⟨cmd, snap, -, -, -, hrun⟩ := runCallbackWord_ok hword
    have hcfg : t.cfg = s.cfg :=
      runProg_noCallback_preserves (fun x => x.cfg = s.cfg) (perform_keeps_cfg _) rfl hrun
    have htcur : t.current = ⟨slot, some ⟨kind, i, index, none⟩⟩ :=
      runProg_noCallback_preserves (fun x => x.current = _) (perform_keeps_current _) hcur hrun
    have hdone := leadsTo_of_runCallbackWord hcur rfl hw hword
    by_cases hmore : ws = []
    · subst hmore
      cases hrest
      have hend : ¬ index + 1 < (s.cfg.callbackProgram kind i).length := by
        simpa using hdrop
      simpa [State.callbackCommandDone, State.leaveCallback, hcfg, htcur, hend] using hdone
    · have hlt : index + 1 < (s.cfg.callbackProgram kind i).length := by
        by_contra hge
        exact hmore (hdrop ▸ List.drop_eq_nil_of_le (by omega))
      let c : Context := ⟨slot, some ⟨kind, i, index + 1, none⟩⟩
      have hnext : t.callbackCommandDone ⟨kind, i, index, none⟩ = t.setCurrent c := by
        simp [State.callbackCommandDone, hcfg, htcur, hlt, c]
      have hrest' : runWords ws (t.setCurrent c) = .ok (u.setCurrent c) := by
        rw [runWords_setCurrent, hrest]
        rfl
      have hgo := ih (s := t.setCurrent c) (u := u.setCurrent c) (index := index + 1)
        (by rw [State.setCurrent_cfg, hcfg, hdrop]) hmore (State.current_setCurrent t c) hrest'
      rw [State.setCurrent_setCurrent] at hgo
      exact hdone.trans (hnext ▸ hgo)

/-! ## A command, step by step (R84) -/

/-- One access of a command in flight, with the callback program that may follow it: the command then stands at what follows. -/
theorem leadsTo_after_access {cmd : Instr} {f : InFlight} {a : Access} {k : Word → Prog} {w w' : Word}
    (hrest : f.rest s.cfg = .act a k) (hstep : contextStep s = commandAccess f w' s)
    (hrun : runProg (callbackRunner cmd) w (.act a k) s = .ok u) :
    ∃ s₁ s₂ v, perform a s = .ok (s₁, v) ∧ s₂.cfg = s.cfg
      ∧ runProg (callbackRunner cmd) w (k v) s₂ = .ok u
      ∧ s.LeadsTo (s₂.setCurrent ⟨some (f.after a v), none⟩) := by
  simp only [runProg] at hrun
  split at hrun
  · cases hrun
  · rename_i s₁ v hperf
    obtain ⟨hcfg, -⟩ := perform_keeps hperf
    split at hrun
    · rename_i kind i
      split at hrun
      · rename_i s₂ hcb
        have hwords := runWords_of_callbackRunner hcb
        have hcfg₂ : s₂.cfg = s.cfg :=
          runWords_ok_preserves (fun x => x.cfg = s.cfg) (perform_keeps_cfg _) hcfg hwords
        refine ⟨s₁, s₂, v, hperf, hcfg₂, hrun, ?_⟩
        cases hprog : s.cfg.callbackProgram kind i with
        | nil =>
          rw [hcfg, hprog] at hwords
          cases hwords
          refine .single ?_
          simp only [hstep, commandAccess, hrest, hperf, hprog]
        | cons w₀ ws =>
          let c : Context := ⟨some (f.after (.callback kind i) v), some ⟨kind, i, 0, none⟩⟩
          have hnext : contextStep s = .next (s₁.setCurrent c) := by
            simp only [hstep, commandAccess, hrest, hperf, hprog]
            rfl
          have hwords' : runWords (w₀ :: ws) (s₁.setCurrent c) = .ok (s₂.setCurrent c) := by
            rw [← hprog, ← hcfg, runWords_setCurrent, hwords]
            rfl
          have hgo := leadsTo_of_runWords (kind := kind) (i := i) (index := 0) (w₀ :: ws)
            (by rw [State.setCurrent_cfg, hcfg, hprog, List.drop_zero]) (by simp)
            (State.current_setCurrent s₁ c) hwords'
          rw [State.setCurrent_setCurrent] at hgo
          exact .head hnext hgo
      · rename_i hstop
        exact absurd hrun (hstop u)
    · rename_i hnot
      refine ⟨s₁, s₁, v, hperf, hcfg, hrun, .single ?_⟩
      rw [hstep, commandAccess_of_perform hrest (fun kind i => ?_) hperf]
      exact hnot kind i

/-- A command in flight runs to its completion, as its accesses in a row do. -/
theorem leadsTo_completeCommand {cmd : Instr} {w w' : Word} (p : Prog) {s u : State} {f : InFlight}
    (hf : f.StandsAt s.cfg p) (hstep : contextStep s = commandAccess f w' s)
    (hrun : runProg (callbackRunner cmd) w p s = .ok u) : s.LeadsTo u.completeCommand := by
  induction p generalizing s u f w' with
  | done =>
    cases hrun
    refine .single ?_
    simp only [hstep, commandAccess, hf.rest_eq]
  | act a k ih =>
    obtain ⟨s₁, s₂, v, hperf, hcfg, hrun', hgo⟩ := leadsTo_after_access hf.rest_eq hstep hrun
    let c : Context := ⟨some (f.after a v), none⟩
    have hf' : (f.after a v).StandsAt s.cfg (k v) := hf.after_perform hperf
    have hrest := ih v (s := s₂.setCurrent c) (u := u.setCurrent c) (f := f.after a v)
      (by rwa [State.setCurrent_cfg, hcfg]) (contextStep_of_slot (State.current_setCurrent s₂ c))
      (by rw [runProg_setCurrent c w (callbackRunner_setCurrent c cmd), hrun']; rfl)
    rw [State.completeCommand, State.setCurrent_setCurrent] at hrest
    exact hgo.trans hrest

/-- A whole command that answers a state without a fault has passed its checks and run to its end. -/
theorem exec_next_of_no_fault {cmd : Instr} (h : exec cmd s = .next t) (hfault : t.fault = none) :
    ∃ snap u, commandStart cmd s = .ok snap
      ∧ runProg (callbackRunner cmd) (encode cmd) (commandProg cmd s.cfg snap) s = .ok u ∧ t = u.advance := by
  rw [exec_eq_wholeCommand] at h
  obtain ⟨-, ⟨c, -, rfl⟩ | ⟨snap, u, hstart, hu, rfl⟩ | ⟨snap, c, w, u, -, -, rfl⟩⟩ := wholeCommand_cases h
  · cases hfault
  · exact ⟨snap, u, hstart, hu, rfl⟩
  · cases hfault

theorem State.current_of_betweenCommands (h : s.betweenCommands = true) : s.current = Context.idle := by
  simp only [State.betweenCommands, Bool.and_eq_true, List.isEmpty_iff, Option.isNone_iff_eq_none] at h
  obtain ⟨⟨hact, hslot⟩, hcb⟩ := h
  rw [State.current, hact, Context.idle, ← hslot, ← hcb]

/-- A frame's completion leaves its context idle, and nothing else is to be done for the command index (R315, R50). -/
theorem State.completeCommand_of_frame {f : Frame} {fs : List Frame} (h : s.active = f :: fs) :
    s.completeCommand = { s.advance with active := ⟨f.line, f.inst, ⟨none, none⟩⟩ :: fs } := by
  simp [State.completeCommand, State.setCurrent, State.advance, Context.idle, h]

end Sys2Proof.Machine

namespace Sys2Proof.Proofs

open Sys2Proof Sys2Proof.Machine

/-- Settles O44, by induction on the accesses of the command and on the words of its callback programs. -/
theorem wholeCommandIsItsAccessesInOrder : Obligations.WholeCommandIsItsAccessesInOrder := by
  refine ⟨fun s t w cmd hb hf hw h hfault => ?_, fun s t f fs i hact hctx h hfault => ?_⟩
  · obtain ⟨snap, u, hstart, hrun, rfl⟩ := exec_next_of_no_fault h hfault
    have hgo := leadsTo_completeCommand _ (InFlight.standsAt_start cmd snap s.cfg)
      (contextStep_start hb hf hw hstart) hrun
    have hcur : u.current = Context.idle :=
      runProg_ok_preserves (fun x => x.current = Context.idle) (perform_keeps_current _)
        (State.current_of_betweenCommands hb) hrun
    rwa [State.completeCommand, ← hcur, State.setCurrent_current] at hgo
  · obtain ⟨snap, u, -, hrun, rfl⟩ := exec_next_of_no_fault h hfault
    have hcur : s.current = dispatchContext i := by rw [State.current, hact, ← hctx]
    have hgo := leadsTo_completeCommand _ (InFlight.standsAt_start (.irqDispatch i) {} s.cfg)
      (contextStep_of_slot hcur) hrun
    have huact : u.active = f :: fs :=
      runProg_ok_preserves (fun x => x.active = f :: fs) (perform_keeps_active _) hact hrun
    rwa [State.completeCommand_of_frame huact] at hgo

end Sys2Proof.Proofs

/-!
PROOF. Register and memory accesses by name and by address (20_memory.md R71-R80): raw register access (R235-R237), the priority
words (R204), the channel registers IC_INIT programs (R180), and the address map.
-/
namespace Sys2Proof.Machine

open Sys2Proof

variable {s t : State}

/-! ## A whole command from its checks and its run -/

theorem exec_of_start_error {cmd : Instr} {c : FaultCause} (hfault : s.fault = none)
    (hstart : commandStart cmd s = .error c) : exec cmd s = .next (s.raise c (encode cmd)) := by
  simp [exec_eq_wholeCommand, wholeCommand, hfault, hstart]

theorem exec_of_run_ok {cmd : Instr} {snap : Snapshot} (hfault : s.fault = none)
    (hstart : commandStart cmd s = .ok snap)
    (hrun : runProg (callbackRunner cmd) (encode cmd) (commandProg cmd s.cfg snap) s = .ok t) :
    exec cmd s = .next t.advance := by
  simp [exec_eq_wholeCommand, wholeCommand, hfault, hstart, hrun]

theorem exec_of_run_fault {cmd : Instr} {snap : Snapshot} {c : FaultCause} {w : Word} (hfault : s.fault = none)
    (hstart : commandStart cmd s = .ok snap)
    (hrun : runProg (callbackRunner cmd) (encode cmd) (commandProg cmd s.cfg snap) s = .fault c w t) :
    exec cmd s = .next (t.raise c w) := by
  simp [exec_eq_wholeCommand, wholeCommand, hfault, hstart, hrun]

/-! ## The checks (R120, R140) -/

theorem checkInst_of_hasInst {i : Inst} (h : s.cfg.hasInst i = true) (cmd : Instr) : checkInst cmd i s = .ok () := by
  simp [checkInst, h]

theorem checkInst_of_no_inst {i : Inst} (h : s.cfg.hasInst i = false) (cmd : Instr) :
    checkInst cmd i s = .error (.badInstance (encode cmd)) := by
  simp [checkInst, h]

section StartChannel

variable {cmd : Instr} {i : Inst} {ch : BitVec 3} {snap : Except FaultCause Snapshot}

theorem startChannel_of_no_inst (hi : s.cfg.hasInst i = false) :
    startChannel cmd i ch snap s = .error (.badInstance (encode cmd)) := by
  simp [startChannel, checkInst_of_no_inst hi]

theorem startChannel_of_channel {c : Channel} (hi : s.cfg.hasInst i = true) (hch : Channel.ofRaw ch = some c) :
    startChannel cmd i ch snap s = snap := by
  simp [startChannel, checkInst_of_hasInst hi, hch]

theorem startChannel_of_noop (hi : s.cfg.hasInst i = true) (hch : Channel.ofRaw ch = none)
    (hpolicy : s.cfg.badChannelPolicy = .noop) : startChannel cmd i ch snap s = .ok {} := by
  simp [startChannel, checkInst_of_hasInst hi, hch, hpolicy]

theorem startChannel_of_badChannel (hi : s.cfg.hasInst i = true) (hch : Channel.ofRaw ch = none)
    (hpolicy : s.cfg.badChannelPolicy = .fault) :
    startChannel cmd i ch snap s = .error (.badChannel (encode cmd)) := by
  simp [startChannel, checkInst_of_hasInst hi, hch, hpolicy]

end StartChannel

theorem channelProg_of_channel {ch : BitVec 3} {c : Channel} (h : Channel.ofRaw ch = some c) (p : Channel → Prog) :
    channelProg ch p = p c := by
  simp [channelProg, h]

theorem channelProg_of_no_channel {ch : BitVec 3} (h : Channel.ofRaw ch = none) (p : Channel → Prog) :
    channelProg ch p = .done := by
  simp [channelProg, h]

theorem registerProg_of_regAt {p : Params} {i : Inst} {idx : BitVec 4} {r : Reg} (h : p.regAt i idx = some r)
    (k : Reg → Prog) : registerProg p i idx k = k r := by
  simp [registerProg, h]

/-- Every per-channel command looks at its timer index first (R302). -/
theorem faultsOnBadInstance_of_startChannel {cmd : Instr} {i : Inst} {ch : BitVec 3}
    {snap : Except FaultCause Snapshot} (hfault : s.fault = none)
    (hstart : commandStart cmd s = startChannel cmd i ch snap s) : FaultsOnBadInstance cmd i s :=
  fun hi => exec_of_start_error hfault (hstart.trans (startChannel_of_no_inst hi))

/-- Every per-channel command treats a bad channel by the policy P9 (R140). -/
theorem badChannelRule_of_startChannel {cmd : Instr} {i : Inst} {ch : BitVec 3} {snap : Except FaultCause Snapshot}
    {p : Snapshot → Channel → Prog} (hfault : s.fault = none)
    (hstart : commandStart cmd s = startChannel cmd i ch snap s)
    (hprog : ∀ h, commandProg cmd s.cfg h = channelProg ch (p h)) : BadChannelRule cmd i ch s := by
  intro hi hch
  refine ⟨fun hpolicy => ?_, fun hpolicy => ?_⟩
  · refine exec_of_run_ok hfault (hstart.trans (startChannel_of_noop hi hch hpolicy)) ?_
    rw [hprog, channelProg_of_no_channel hch]
    rfl
  · exact exec_of_start_error hfault (hstart.trans (startChannel_of_badChannel hi hch hpolicy))

/-! ## Accesses to an unclocked timer (R73) -/

theorem State.rd_of_ignored {i : Inst} (hclk : s.clocked i = false) (hpolicy : s.cfg.unclockedPolicy = .ignore)
    (r : Reg) : s.rd i r = .ok 0 := by
  simp [State.rd, hclk, hpolicy]

theorem State.wr_of_ignored {i : Inst} (hclk : s.clocked i = false) (hpolicy : s.cfg.unclockedPolicy = .ignore)
    (r : Reg) (v : Half) : s.wr i r v = .ok s := by
  simp [State.wr, hclk, hpolicy]

/-- A read or a write of a register of timer `i`. -/
def Access.rdOrWr (i : Inst) : Access → Prop
  | .rd j _ | .wr j _ _ => j = i
  | .rdC _ | .wrC _ _ | .wrISER _ _ | .wrICER _ _ | .rdIPR _ | .wrIPR _ _ => False
  | .rdResult _ _ | .setResult _ | .setField _ _ _ | .callback _ _ => False

theorem perform_of_ignored {i : Inst} {a : Access} (ha : a.rdOrWr i) (hclk : s.clocked i = false)
    (hpolicy : s.cfg.unclockedPolicy = .ignore) : perform a s = .ok (s, 0) := by
  cases a <;> simp only [Access.rdOrWr] at ha <;> subst ha
  case rd r => simp [perform, State.rd_of_ignored hclk hpolicy]
  case wr r v => simp [perform, State.wr_of_ignored hclk hpolicy]

/-- Ignored accesses, however many, leave the state as it is. -/
theorem runProg_of_ignored {i : Inst} (cb : CallbackRunner) (w : Word) (hclk : s.clocked i = false)
    (hpolicy : s.cfg.unclockedPolicy = .ignore) {p : Prog} (hp : p.Only (Access.rdOrWr i)) :
    runProg cb w p s = .ok s := by
  induction p with
  | done => rfl
  | act a k ih =>
    obtain ⟨ha, hk⟩ := hp
    have hrest := ih 0 (hk 0)
    have hperf := perform_of_ignored ha hclk hpolicy
    cases a
    case callback => exact ha.elim
    all_goals simpa only [runProg, hperf] using hrest

theorem idlesOnUnclocked_of_only {cmd : Instr} {i : Inst} {snap : Snapshot} (hfault : s.fault = none)
    (hstart : s.cfg.hasInst i = true → commandStart cmd s = .ok snap)
    (hprog : (commandProg cmd s.cfg snap).Only (Access.rdOrWr i)) : IdlesOnUnclocked cmd i s :=
  fun hi hclk hpolicy => exec_of_run_ok hfault (hstart hi) (runProg_of_ignored _ _ hclk hpolicy hprog)

/-- A command that passes its checks and starts with a read of a timer register faults there. -/
theorem faultsOnUnclocked_of_rd {cmd : Instr} {i : Inst} {r : Reg} {snap : Snapshot} {k : Half → Prog}
    (hfault : s.fault = none) (hstart : s.cfg.hasInst i = true → commandStart cmd s = .ok snap)
    (hprog : commandProg cmd s.cfg snap = .rd i r k) : FaultsOnUnclocked cmd i r s := by
  intro hi hclk hpolicy
  refine exec_of_run_fault hfault (hstart hi) ?_
  simp [hprog, Prog.rd, runProg, perform, State.rd_of_unclocked hclk hpolicy]

/-- A command that passes its checks and starts with a write of a timer register faults there. -/
theorem faultsOnUnclocked_of_wr {cmd : Instr} {i : Inst} {r : Reg} {v : Half} {snap : Snapshot} {k : Prog}
    (hfault : s.fault = none) (hstart : s.cfg.hasInst i = true → commandStart cmd s = .ok snap)
    (hprog : commandProg cmd s.cfg snap = .wr i r v k) : FaultsOnUnclocked cmd i r s := by
  intro hi hclk hpolicy
  refine exec_of_run_fault hfault (hstart hi) ?_
  simp [hprog, Prog.wr, runProg, perform, State.wr_of_unclocked hclk hpolicy]

/-! ## IC_INIT (R180) -/

section SnapIc

variable {i : Inst} {h : Handle} {p : IcPolarity} {e : IcSelection} {f : BitVec 4}

/-- The fields are looked at in the order of their ids, so the lowest unwritten one is reported (R302). -/
theorem snapIc_of_no_polarity (hp : h.icPolarity = none) : snapIc i h = .error (.unsetHandleField i 6) := by
  simp only [snapIc, needField, hp]
  rfl

theorem snapIc_of_no_selection (hp : h.icPolarity = some p) (he : h.icSelection = none) :
    snapIc i h = .error (.unsetHandleField i 7) := by
  simp only [snapIc, needField, hp, he]
  rfl

theorem snapIc_of_no_filter (hp : h.icPolarity = some p) (he : h.icSelection = some e) (hf : h.icFilter = none) :
    snapIc i h = .error (.unsetHandleField i 9) := by
  simp only [snapIc, needField, hp, he, hf]
  rfl

theorem snapIc_of_complete (hp : h.icPolarity = some p) (he : h.icSelection = some e) (hf : h.icFilter = some f) :
    snapIc i h = .ok { icPolarity := p, icSelection := e, icFilter := f } := by
  simp only [snapIc, needField, hp, he, hf]
  rfl

end SnapIc

theorem commandStart_icInit {i : Inst} {ch : BitVec 3} {c : Channel} (hi : s.cfg.hasInst i = true)
    (hch : Channel.ofRaw ch = some c) : commandStart (.icInit i ch) s = snapIc i (s.handle i) :=
  startChannel_of_channel hi hch

theorem Channel.modeReg_ne_epr (c : Channel) : c.modeReg ≠ .epr := by
  cases c <;> decide

/-- Both mode registers have the write mask of R71, so a value within it is stored unchanged. -/
theorem storedValue_modeReg (p : Params) (c : Channel) (old : Half) {v : Half} (h : v &&& ~~~0xFBFB#16 = 0#16) :
    storedValue p c.modeReg old v = v := by
  cases c <;> exact and_mask_of_within h

theorem State.namedBitsOnly.modeReg (h : s.namedBitsOnly) (i : Inst) (c : Channel) :
    s.reg i c.modeReg &&& ~~~0xFBFB#16 = 0#16 := by
  cases c <;> exact h i _

/-- The four accesses of IC_INIT on a clocked timer. The mode value fits its register; of the EPR value the write mask drops
an NP bit that does not exist. -/
theorem runProg_progIcInit {cb : CallbackRunner} {w : Word} {i : Inst} {ch : BitVec 3} {c : Channel}
    (hclk : s.clocked i = true) (hnamed : s.namedBitsOnly) (hch : Channel.ofRaw ch = some c) (h : Snapshot) :
    runProg cb w (progIcInit s.cfg i ch h) s
      = .ok ((s.setReg i c.modeReg
          (icMr (s.reg i c.modeReg) c (icSelCode s.cfg h.icSelection) h.icFilter)).setReg i .epr
          (eprSet s.cfg.ccerClearMask (s.reg i .epr) c (patIc h.icPolarity) &&& s.cfg.eprMask)) := by
  have hmode := storedValue_modeReg s.cfg c (s.reg i c.modeReg)
    (icMr_within c (icSelCode s.cfg h.icSelection) h.icFilter (hnamed.modeReg i c))
  have hepr (v : Half) : (s.setReg i c.modeReg v).reg i .epr = s.reg i .epr :=
    s.reg_setReg_ne v (.inr (Channel.modeReg_ne_epr c))
  have hclk' (v : Half) : (s.setReg i c.modeReg v).clocked i = true := by rw [State.clocked_setReg, hclk]
  rw [progIcInit, channelProg_of_channel hch, runProg_rd hclk, runProg_wr hclk, hmode, runProg_rd (hclk' _),
    runProg_wr (hclk' _), hepr, storedValue_epr]
  rfl

/-! ## NVIC_SET_PRIO (R204) -/

theorem runProg_progNvicSetPrio {cb : CallbackRunner} {w : Word} (level : BitVec 8) (line : BitVec 16) :
    runProg cb w (progNvicSetPrio level line) s
      = .ok (s.wrIPR (lineSlot line.toNat) (s.prioWord (lineSlot line.toNat) ||| prioPattern level line.toNat)) :=
  rfl

theorem startNvicSetPrio_of_lt {line : BitVec 16} (h : lineSlot line.toNat < s.cfg.numPrioSlots) (level : BitVec 8) :
    startNvicSetPrio level line s = .ok {} := by
  simp [startNvicSetPrio, h]

theorem startNvicSetPrio_of_le {line : BitVec 16} (h : s.cfg.numPrioSlots ≤ lineSlot line.toNat) (level : BitVec 8) :
    startNvicSetPrio level line s = .error (.priorityOutOfRange line) := by
  simp [startNvicSetPrio, h]

/-! ## REG_RD and REG_WR (R235-R237) -/

section RawAccess

variable {i : Inst} {idx : BitVec 4} {r : Reg} {v : Half}

theorem startRegRd_of_no_inst (hi : s.cfg.hasInst i = false) :
    startRegRd i idx s = .error (.badInstance (encode (.regRd i idx))) := by
  simp [startRegRd, checkInst_of_no_inst hi]

theorem startRegRd_of_no_register (hi : s.cfg.hasInst i = true) (hr : s.cfg.regAt i idx = none) :
    startRegRd i idx s = .error (.noSuchRegister i idx) := by
  simp [startRegRd, checkInst_of_hasInst hi, hr]

theorem startRegRd_of_regAt (hi : s.cfg.hasInst i = true) (hr : s.cfg.regAt i idx = some r) :
    startRegRd i idx s = .ok {} := by
  simp [startRegRd, checkInst_of_hasInst hi, hr]

/-- REG_RD puts in `result` whatever its read answers. -/
theorem exec_regRd_of_rd (hfault : s.fault = none) (hi : s.cfg.hasInst i = true)
    (hr : s.cfg.regAt i idx = some r) (hread : s.rd i r = .ok v) :
    exec (.regRd i idx) s = .next ({ s with result := v.setWidth 32 } : State).advance := by
  refine exec_of_run_ok hfault (startRegRd_of_regAt hi hr) ?_
  have hv : (v.setWidth 32).setWidth 16 = v := by simp
  simp only [commandProg, progRegRd, registerProg_of_regAt hr, Prog.rd, Prog.perform, runProg, perform, hread, hv]

theorem setsReservedBit_iff : setsReservedBit r v = true ↔ r ≠ .sr ∧ v &&& ~~~r.namedMask ≠ 0#16 := by
  simp [setsReservedBit]

theorem startRegWr_of_no_inst (hi : s.cfg.hasInst i = false) :
    startRegWr i idx v s = .error (.badInstance (encode (.regWr i idx v))) := by
  simp [startRegWr, checkInst_of_no_inst hi]

theorem startRegWr_of_no_register (hi : s.cfg.hasInst i = true) (hr : s.cfg.regAt i idx = none) :
    startRegWr i idx v s = .error (.noSuchRegister i idx) := by
  simp [startRegWr, checkInst_of_hasInst hi, hr]

theorem startRegWr_of_reserved (hi : s.cfg.hasInst i = true) (hr : s.cfg.regAt i idx = some r) (hsr : r ≠ .sr)
    (hv : v &&& ~~~r.namedMask ≠ 0#16) : startRegWr i idx v s = .error (.reservedBitWrite i idx v) := by
  simp [startRegWr, checkInst_of_hasInst hi, hr, setsReservedBit_iff.mpr ⟨hsr, hv⟩]

/-- SR takes every value, another register those without an unnamed bit (R237). -/
theorem startRegWr_of_regAt (hi : s.cfg.hasInst i = true) (hr : s.cfg.regAt i idx = some r)
    (hv : r = .sr ∨ v &&& ~~~r.namedMask = 0#16) : startRegWr i idx v s = .ok {} := by
  have hno : ¬ setsReservedBit r v = true := by
    rw [setsReservedBit_iff]
    rintro ⟨hsr, hne⟩
    exact hv.elim hsr hne
  simp [startRegWr, checkInst_of_hasInst hi, hr, hno]

theorem commandProg_regWr (hr : s.cfg.regAt i idx = some r) (snap : Snapshot) :
    commandProg (.regWr i idx v) s.cfg snap = .wr i r v .done :=
  registerProg_of_regAt hr _

theorem exec_regWr_of_ready (hready : s.ready i) (hr : s.cfg.regAt i idx = some r)
    (hv : r = .sr ∨ v &&& ~~~r.namedMask = 0#16) :
    exec (.regWr i idx v) s = .next (s.setReg i r (storedValue s.cfg r (s.reg i r) v)).advance := by
  obtain ⟨hfault, hi, hclk⟩ := hready
  refine exec_of_run_ok hfault (startRegWr_of_regAt hi hr hv) ?_
  rw [commandProg_regWr hr, runProg_wr hclk]
  rfl

end RawAccess

theorem storedValue_of_ne_sr {r : Reg} (h : r ≠ .sr) (p : Params) (old v : Half) :
    storedValue p r old v = v &&& p.writeMask r := by
  cases r
  case sr => exact absurd rfl h
  all_goals rfl

/-! ## The address map (R79, R80) -/

section AddressMap

variable {p : Params} {addr n : Nat} {x : RegTarget}

theorem Params.target_of_not_mem (h : ∀ x, (addr, x) ∉ p.regAddress) : Params.target p addr n = none := by
  have hfind : p.regAddress.find? (fun e => e.1 == addr) = none := by
    simp only [List.find?_eq_none, beq_iff_eq]
    rintro ⟨_, x⟩ hmem rfl
    exact h x hmem
  simp [Params.target, hfind]

/-- With distinct addresses a search by address finds the one entry it has. -/
theorem find_entry (hnd : (p.regAddress.map Prod.fst).Nodup) (hmem : (addr, x) ∈ p.regAddress) :
    p.regAddress.find? (fun e => e.1 == addr) = some (addr, x) := by
  have hsome : (p.regAddress.find? (fun e => e.1 == addr)).isSome = true :=
    List.find?_isSome.mpr ⟨(addr, x), hmem, beq_self_eq_true addr⟩
  obtain ⟨e, he⟩ := Option.isSome_iff_exists.mp hsome
  have haddr : e.1 = addr := by simpa using List.find?_some he
  rw [he, List.inj_on_of_nodup_map hnd (List.mem_of_find?_eq_some he) hmem haddr]

theorem Params.target_of_mem (hnd : (p.regAddress.map Prod.fst).Nodup) (hmem : (addr, x) ∈ p.regAddress)
    (hx : RegTarget.present p x = true) : Params.target p addr (RegTarget.bytes x) = some x := by
  simp [Params.target, find_entry hnd hmem, hx]

theorem Params.target_of_width (hnd : (p.regAddress.map Prod.fst).Nodup) (hmem : (addr, x) ∈ p.regAddress)
    (hn : n ≠ RegTarget.bytes x) : Params.target p addr n = none := by
  simp [Params.target, find_entry hnd hmem, hn.symm]

theorem Params.target_of_absent (hnd : (p.regAddress.map Prod.fst).Nodup) (hmem : (addr, x) ∈ p.regAddress)
    (hx : RegTarget.present p x = false) : Params.target p addr n = none := by
  simp [Params.target, find_entry hnd hmem, hx]

theorem memAccess_of_no_target (h : Params.target s.cfg addr n = none) (v : Word) :
    memRead addr n s = .error (.noRegisterAt addr n) ∧ memWrite addr n v s = .error (.noRegisterAt addr n) := by
  simp [memRead, memWrite, h]

theorem memAccess_of_entry (hnd : (s.cfg.regAddress.map Prod.fst).Nodup) (hmem : (addr, x) ∈ s.cfg.regAddress)
    (hx : RegTarget.present s.cfg x = true) (v : Word) :
    memRead addr (RegTarget.bytes x) s = .ok (s.readTarget x)
      ∧ memWrite addr (RegTarget.bytes x) v s = .ok (s.writeTarget x v) := by
  simp [memRead, memWrite, Params.target_of_mem hnd hmem hx]

theorem RegTarget.present_timer {i : Inst} {r : Reg} (hi : p.hasInst i = true) (hr : p.regAt i r.index = some r) :
    RegTarget.present p (.timer i r) = true := by
  simp [RegTarget.present, hi, hr]

end AddressMap

end Sys2Proof.Machine

namespace Sys2Proof.Proofs

open Sys2Proof Sys2Proof.Machine

/-- Settles O23: the checks in the order of R302, and then the run of the four accesses. -/
theorem icInitProgramsTheChannel : Obligations.IcInitProgramsTheChannel := by
  intro i ch s hfault
  have hbad : FaultsOnBadInstance (.icInit i ch) i s := faultsOnBadInstance_of_startChannel hfault rfl
  refine ⟨hbad, badChannelRule_of_startChannel hfault rfl (fun _ => rfl), fun c hch hi => ?_⟩
  have hstart := commandStart_icInit hi hch
  refine ⟨fun hp => exec_of_start_error hfault (hstart.trans (snapIc_of_no_polarity hp)), fun p hp => ?_⟩
  refine ⟨fun he => exec_of_start_error hfault (hstart.trans (snapIc_of_no_selection hp he)), fun e he => ?_⟩
  refine ⟨fun hf => exec_of_start_error hfault (hstart.trans (snapIc_of_no_filter hp he hf)), fun f hf => ?_⟩
  have hok := hstart.trans (snapIc_of_complete hp he hf)
  refine ⟨?_, ?_, fun hclk hnamed => ?_⟩
  · exact faultsOnUnclocked_of_rd hfault (fun _ => hok) (channelProg_of_channel hch _)
  · exact idlesOnUnclocked_of_only hfault (fun _ => hok)
      (Prog.only_channelProg fun c => by simp [Access.rdOrWr])
  · exact exec_of_run_ok hfault hok (runProg_progIcInit hclk hnamed hch _)

/-- Settles O36: the check of R237 tells SR from the others, and a write that passes it is one access. -/
theorem regWrWritesTheNamedRegister : Obligations.RegWrWritesTheNamedRegister := by
  intro i idx v s hfault
  refine ⟨fun hi => exec_of_start_error hfault (startRegWr_of_no_inst hi),
    fun hi hr => exec_of_start_error hfault (startRegWr_of_no_register hi hr), fun r hr => ⟨?_, ?_, ?_, ?_⟩⟩
  · intro hsr hv hi
    exact exec_of_start_error hfault (startRegWr_of_reserved hi hr hsr hv)
  · intro hv
    have hstart (hi : s.cfg.hasInst i = true) : commandStart (.regWr i idx v) s = .ok {} :=
      startRegWr_of_regAt hi hr hv
    exact ⟨faultsOnUnclocked_of_wr hfault hstart (commandProg_regWr hr _),
      idlesOnUnclocked_of_only hfault hstart (by simp [commandProg_regWr hr, Access.rdOrWr])⟩
  · rintro rfl hready hnamed
    rw [exec_regWr_of_ready hready hr (.inl rfl), storedValue_sr, srWrite_of_within (hnamed i .sr)]
  · intro hsr hv hready
    rw [exec_regWr_of_ready hready hr (.inr hv), storedValue_of_ne_sr hsr]

/-- Settles O28: the check decides by the line's slot, and the two accesses are one read-modify-write of its word. -/
theorem nvicSetPrioOrsTheLevelIn : Obligations.NvicSetPrioOrsTheLevelIn := by
  intro level line s hfault
  refine ⟨fun hslot => ?_, fun hslot => ?_⟩
  · exact exec_of_run_ok hfault (startNvicSetPrio_of_lt hslot level) (runProg_progNvicSetPrio level line)
  · exact exec_of_start_error hfault (startNvicSetPrio_of_le hslot level)

/-- Settles O35: `result` takes what the read of R71 and R73 answers. -/
theorem regRdReadsTheNamedRegister : Obligations.RegRdReadsTheNamedRegister := by
  intro i idx s hfault
  refine ⟨fun hi => exec_of_start_error hfault (startRegRd_of_no_inst hi),
    fun hi hr => exec_of_start_error hfault (startRegRd_of_no_register hi hr), fun r hr => ⟨?_, ?_, ?_⟩⟩
  · exact faultsOnUnclocked_of_rd hfault (fun hi => startRegRd_of_regAt hi hr) (registerProg_of_regAt hr _)
  · intro hi hclk hpolicy
    exact exec_regRd_of_rd hfault hi hr (State.rd_of_ignored hclk hpolicy r)
  · rintro ⟨-, hi, hclk⟩
    exact exec_regRd_of_rd hfault hi hr (State.rd_of_clocked hclk r)

/-- Settles O60: the map finds the one register an address names, and the access is that register's. -/
theorem memoryAccessIsRefusedOffTheMap : Obligations.MemoryAccessIsRefusedOffTheMap := by
  intro s addr n v hnd
  refine ⟨fun hno => ?_, fun x hmem hn => ?_, fun i r hmem hi hr => ?_, fun b hmem => ?_, fun b hmem hb => ?_,
    fun b hmem hb => ?_, fun k hmem hk => ?_, fun x hmem hx => ?_⟩
  · exact memAccess_of_no_target (Params.target_of_not_mem hno) v
  · exact memAccess_of_no_target (Params.target_of_width hnd hmem hn) v
  · obtain ⟨hread, hwrite⟩ := memAccess_of_entry hnd hmem (RegTarget.present_timer hi hr) v
    rw [RegTarget.bytes] at hread hwrite
    rw [hread, hwrite, State.readTarget, State.writeTarget]
    refine ⟨fun hclk => ?_, fun hclk hpolicy => ?_, fun hclk hpolicy => ?_⟩
    · simp [State.rd_of_clocked hclk, State.wr_of_clocked hclk]
    · simp [State.rd_of_unclocked hclk hpolicy, State.wr_of_unclocked hclk hpolicy]
    · simp [State.rd_of_ignored hclk hpolicy, State.wr_of_ignored hclk hpolicy]
  · exact memAccess_of_entry hnd hmem rfl v
  · exact memAccess_of_entry hnd hmem (decide_eq_true hb) v
  · exact memAccess_of_entry hnd hmem (decide_eq_true hb) v
  · exact memAccess_of_entry hnd hmem (decide_eq_true hk) v
  · exact memAccess_of_no_target (Params.target_of_absent hnd hmem hx) v

end Sys2Proof.Proofs

/-!
PROOF. The obligations of 30_encoding.md: decoding and encoding are inverse (R91-R97), which words are illegal (R97, R98), and
what the machine does with an illegal word (R300, R301).
-/
namespace Sys2Proof

/-! ## The word of a command meets its row's check (R97, step 3)

A mask is cut where the format is cut. It covers the opcode and the fixed zeros whole and no bit of INST; what it covers of
each other field has to be 0 there. -/

theorem Opcode.code_and_ones (o : Opcode) : o.code &&& 0x1F#5 = o.code := BitVec.and_allOnes

/-- The match value of a row is its word with every operand 0, in each of the formats. -/
theorem Opcode.pattern_eq_format (o : Opcode) :
    o.pattern = formatT o 0 0 0 ∧ o.pattern = formatR o 0 0 0 ∧ o.pattern = formatN o 0 0 0 := by
  cases o <;> decide

theorem append_and_append_of_eq {n k : ℕ} {x m p : BitVec n} {y m' p' : BitVec k} (h : x &&& m = p)
    (h' : y &&& m' = p') : (x ++ y) &&& (m ++ m') = p ++ p' := by
  rw [BitVec.and_append, h, h']

theorem formatT_and_mask {o : Opcode} {ch mch : BitVec 3} {imm mimm : Half}
    (hmask : o.mask = 0x1F#5 ++ 0#3 ++ mch ++ 0x1F#5 ++ mimm) (hch : ch &&& mch = 0#3) (himm : imm &&& mimm = 0#16)
    (i : Inst) : formatT o i ch imm &&& o.mask = o.pattern := by
  obtain ⟨hpattern, -, -⟩ := o.pattern_eq_format
  have hinst := append_and_append_of_eq o.code_and_ones (BitVec.and_zero (x := i))
  have hz : 0#5 &&& 0x1F#5 = 0#5 := BitVec.zero_and
  rw [hmask, hpattern]
  exact append_and_append_of_eq (append_and_append_of_eq (append_and_append_of_eq hinst hch) hz) himm

theorem formatR_and_mask {o : Opcode} {imm mimm : Half} (hmask : o.mask = 0x1F#5 ++ 0#3 ++ 0#4 ++ 0xF#4 ++ mimm)
    (himm : imm &&& mimm = 0#16) (i : Inst) (r : BitVec 4) : formatR o i r imm &&& o.mask = o.pattern := by
  obtain ⟨-, hpattern, -⟩ := o.pattern_eq_format
  have hinst := append_and_append_of_eq o.code_and_ones (BitVec.and_zero (x := i))
  have hreg := append_and_append_of_eq hinst (BitVec.and_zero (x := r))
  have hz : 0#4 &&& 0xF#4 = 0#4 := BitVec.zero_and
  rw [hmask, hpattern]
  exact append_and_append_of_eq (append_and_append_of_eq hreg hz) himm

theorem formatN_and_mask {o : Opcode} {en men : BitVec 1} {level mlevel : BitVec 8}
    (hmask : o.mask = 0x1F#5 ++ men ++ 0x3#2 ++ mlevel ++ 0#16) (hen : en &&& men = 0#1)
    (hlevel : level &&& mlevel = 0#8) (line : BitVec 16) : formatN o en level line &&& o.mask = o.pattern := by
  obtain ⟨-, -, hpattern⟩ := o.pattern_eq_format
  have hfirst := append_and_append_of_eq o.code_and_ones hen
  have hz : 0#2 &&& 0x3#2 = 0#2 := BitVec.zero_and
  rw [hmask, hpattern]
  exact append_and_append_of_eq (append_and_append_of_eq (append_and_append_of_eq hfirst hz) hlevel) BitVec.and_zero

theorem encode_and_mask (cmd : Instr) : encode cmd &&& cmd.row.mask = cmd.row.pattern := by
  cases cmd
  case clkEn | baseInit | baseStart | baseStop | baseStartIt | baseStopIt | irqDispatch =>
    exact formatT_and_mask (mch := 0x7) (mimm := 0xFFFF) rfl BitVec.zero_and BitVec.zero_and _
  case pwmInit | pwmStart | pwmStop | icInit | icStartIt | icStopIt | icRead =>
    exact formatT_and_mask (mch := 0) (mimm := 0xFFFF) rfl BitVec.and_zero BitVec.zero_and _
  case pwmSetDuty => exact formatT_and_mask (mch := 0) (mimm := 0) rfl BitVec.and_zero BitVec.and_zero _
  case nvicSetEn => exact formatN_and_mask (men := 0) (mlevel := 0xFF) rfl BitVec.and_zero BitVec.zero_and _
  case nvicSetPrio => exact formatN_and_mask (men := 1) (mlevel := 0) rfl BitVec.zero_and BitVec.and_zero _
  case regRd => exact formatR_and_mask (mimm := 0xFFFF) rfl BitVec.zero_and _ _
  case regWr | hset => exact formatR_and_mask (mimm := 0) rfl BitVec.and_zero _ _

/-! ## Decoding and encoding are inverse -/

theorem opField_encode (cmd : Instr) : opField (encode cmd) = cmd.row.code := by
  cases cmd <;> simp [encode, Instr.row]

/-- Every operand is read back from the field it was written to (R95). -/
theorem Instr.operands_row_encode (cmd : Instr) : cmd.row.operands (encode cmd) = cmd := by
  cases cmd <;> simp [encode, Instr.row, Opcode.operands]

theorem decode_encode {cmd : Instr} (h : cmd.wellFormed = true) : decode (encode cmd) = .ok cmd := by
  have hops := cmd.operands_row_encode
  rw [decode_of_row (opField_encode cmd) (encode_and_mask cmd) (hops.symm ▸ h), hops]

theorem decode_eq_ok_iff {w : Word} {cmd : Instr} : decode w = .ok cmd ↔ encode cmd = w ∧ cmd.wellFormed = true := by
  constructor
  · intro h
    obtain ⟨-, -, -, -, hwf⟩ := decode_ok h
    exact ⟨encode_of_decode h, hwf⟩
  · rintro ⟨rfl, hwf⟩
    exact decode_encode hwf

/-! ## The illegal words (R97, R98) -/

theorem Opcode.ofCode_eq_none_iff : ∀ op : BitVec 5, Opcode.ofCode op = none ↔ op = 0x00 ∨ 0x15 ≤ op.toNat := by
  decide

theorem Opcode.ofCode_eq_some_iff {op : BitVec 5} {o : Opcode} : Opcode.ofCode op = some o ↔ op = o.code := by
  constructor
  · exact fun h => (Opcode.code_of_ofCode h).symm
  · rintro rfl
    exact Opcode.ofCode_code o

/-- Only the field id of HSET has values without a meaning (R97, step 4). -/
theorem Opcode.wellFormed_operands_eq_false_iff {o : Opcode} {w : Word} :
    (o.operands w).wellFormed = false ↔ o = .hset ∧ 10 ≤ (regField w).toNat := by
  cases o <;> simp [Opcode.operands, Instr.wellFormed, handleFieldExists]

theorem decode_of_reserved {w : Word} (h : Opcode.ofCode (opField w) = none) :
    decode w = .error .reservedOpcode := by
  simp [decode, h]

theorem decode_eq_error_iff_of_row {w : Word} {o : Opcode} (h : Opcode.ofCode (opField w) = some o) :
    (∃ e, decode w = .error e) ↔ w &&& o.mask ≠ o.pattern ∨ (o.operands w).wellFormed = false := by
  by_cases hm : w &&& o.mask = o.pattern
  · cases hwf : (o.operands w).wellFormed <;> simp [decode, h, hm, hwf]
  · simp [decode, h, hm]

end Sys2Proof

namespace Sys2Proof.Machine

open Sys2Proof

variable {s : State} {w : Word} {e : DecodeError}

/-! ## An illegal word at the command index (R300, R301) -/

theorem commandTurn_of_illegal (hb : s.betweenCommands = true) (hf : fetch s = some w) (hd : decode w = .error e) :
    commandTurn s = .next (s.raise (.illegalCommand w) w) := by
  simp [commandTurn, hb, hf, hd]

theorem contextStep_of_illegal (hb : s.betweenCommands = true) (hf : fetch s = some w) (hd : decode w = .error e) :
    contextStep s = .next (s.raise (.illegalCommand w) w) := by
  simp [contextStep, State.current_of_betweenCommands hb, Context.idle, State.active_of_betweenCommands hb, hf, hd]

end Sys2Proof.Machine

namespace Sys2Proof.Proofs

open Sys2Proof Sys2Proof.Machine

/-- Settles O1: the word of a command meets its row's check, and every operand is read back from its own field. -/
theorem decodeReadsBackEveryEncoding : Obligations.DecodeReadsBackEveryEncoding :=
  fun _ h => decode_encode h

/-- Settles O2: the other half of `decode_eq_ok_iff`. -/
theorem decodedWordIsTheEncodingOfItsCommand : Obligations.DecodedWordIsTheEncodingOfItsCommand :=
  fun _ _ h => decode_eq_ok_iff.mp h

/-- Settles O3, by what the opcode names: no row, or one row, whose checks decide. -/
theorem wordIsIllegalExactlyAsTheDecoderRuleSays : Obligations.WordIsIllegalExactlyAsTheDecoderRuleSays := by
  intro w
  cases ho : Opcode.ofCode (opField w) with
  | none => exact iff_of_true ⟨_, decode_of_reserved ho⟩ (.inl ((Opcode.ofCode_eq_none_iff _).mp ho))
  | some o =>
    rw [decode_eq_error_iff_of_row ho, Opcode.wellFormed_operands_eq_false_iff]
    have hcode : opField w = o.code := Opcode.ofCode_eq_some_iff.mp ho
    constructor
    · rintro (hm | ⟨rfl, hfld⟩)
      · exact .inr (.inl ⟨o, rfl, hm⟩)
      · exact .inr (.inr ⟨hcode, hfld⟩)
    · rintro (hreserved | ⟨_, ⟨⟩, hm⟩ | ⟨hop, hfld⟩)
      · cases ho.symm.trans ((Opcode.ofCode_eq_none_iff _).mpr hreserved)
      · exact .inl hm
      · cases ho.symm.trans (Opcode.ofCode_eq_some_iff (o := .hset).mpr hop)
        exact .inr ⟨rfl, hfld⟩

/-- Settles O4: nine of the words are those of their commands, and the opcode of the tenth names no row. -/
theorem sampleWordsDecodeAsTheMapSays : Obligations.SampleWordsDecodeAsTheMapSays := by
  have hzero : decode 0x00000000 = .error .reservedOpcode := decode_of_reserved (by decide)
  simp only [Obligations.SampleWordsDecodeAsTheMapSays, decode_eq_ok_iff, hzero]
  decide

/-- States that meet the premises of O41 with either of its turns at the head of the list. -/
theorem witness_IllegalWordFaultsWhenExecuted_turns :
    ∀ tn ∈ [Turn.command, Turn.access],
      ({ Tests.oneCommand 0xA0A00000 with schedule := [tn] } : State).betweenCommands = true
        ∧ Tests.onNext (·.fault) (step { Tests.oneCommand 0xA0A00000 with schedule := [tn] })
          = some (some ⟨.illegalCommand 0xA0A00000, 0xA0A00000, .base⟩) := by
  decide

/-- Settles O41: between two commands at the base level a whole command and a single access start alike, by decoding the word
at the command index. -/
theorem illegalWordFaultsWhenExecuted : Obligations.IllegalWordFaultsWhenExecuted := by
  intro s w e ts hfault hlegal hb hf hd hs
  obtain hs | hs := hs
  · exact (machineStep_of_turn hfault hlegal hs).trans (commandTurn_of_illegal (s := { s with schedule := ts }) hb hf hd)
  · exact (machineStep_of_turn hfault hlegal hs).trans (contextStep_of_illegal (s := { s with schedule := ts }) hb hf hd)

end Sys2Proof.Proofs

/-!
PROOF. The obligations of 40_clock.md: what CLK_EN does (R110), what the commands of the clock and the base timer leave alone
(R110, R121-R126), and that no whole command takes a clock away (R112).
-/
namespace Sys2Proof.Machine

open Sys2Proof

variable {s t u : State}

/-! ## Enabling a clock (R110) -/

/-- The state after `ClockEnable(i)`: the one clock bit of timer `i` is set. -/
def State.enableClock (s : State) (i : Inst) : State :=
  s.setClk (s.cfg.busOf i) (s.clk (s.cfg.busOf i) ||| (1#32 <<< s.cfg.bitOf i))

theorem State.enableClock_clk_ne {i : Inst} {b : Bus} (h : b ≠ s.cfg.busOf i) :
    (s.enableClock i).clk b = s.clk b :=
  s.clk_setClk_ne _ h.symm

theorem State.enableClock_getLsbD {i : Inst} (n : Nat) :
    ((s.enableClock i).clk (s.cfg.busOf i)).getLsbD n
      = ((s.clk (s.cfg.busOf i)).getLsbD n || decide (n = s.cfg.bitOf i)) := by
  have hbit : s.cfg.bitOf i < 32 := (s.cfg.clkBit[i.toNat]'i.isLt).isLt
  rw [State.enableClock, State.clk_setClk_self, BitVec.getLsbD_or, ← BitVec.twoPow_eq, BitVec.getLsbD_twoPow]
  simp [hbit, eq_comm]

/-- Enabling one timer's clock takes no other timer's away (R112). -/
theorem State.clocked_enableClock {i j : Inst} (h : s.clocked j = true) : (s.enableClock i).clocked j = true := by
  have hcfg : (s.enableClock i).cfg = s.cfg := s.setClk_cfg _ _
  rw [State.clocked, hcfg]
  by_cases hb : s.cfg.busOf j = s.cfg.busOf i
  · rw [hb, State.enableClock_getLsbD, ← hb]
    exact Bool.or_eq_true_iff.mpr (.inl h)
  · rwa [State.enableClock_clk_ne hb]

/-! ## Commands that enable a clock first -/

/-- The program is a `ClockEnable(i)` followed by accesses that satisfy `A`, or accesses that satisfy `A` alone. -/
def Prog.EnablesThenOnly (params : Params) (i : Inst) (A : Access → Prop) (p : Prog) : Prop :=
  p.Only A ∨ ∃ k : Prog, k.Only A ∧ p = clockEnable params i k

theorem Prog.EnablesThenOnly.mono {params : Params} {i : Inst} {A B : Access → Prop} {p : Prog}
    (hAB : ∀ a, A a → B a) (h : p.EnablesThenOnly params i A) : p.EnablesThenOnly params i B :=
  h.imp (Prog.Only.mono hAB) fun ⟨k, hk, hp⟩ => ⟨k, hk.mono hAB, hp⟩

theorem progClkEn_of_hasInst {params : Params} {i : Inst} (h : params.hasInst i = true) :
    progClkEn params i = clockEnable params i .done := by
  rw [progClkEn, if_pos h]

theorem progClkEn_of_no_inst {params : Params} {i : Inst} (h : params.hasInst i = false) :
    progClkEn params i = .done := by
  simp [progClkEn, h]

theorem progClkEn_enables (params : Params) (i : Inst) (A : Access → Prop) :
    (progClkEn params i).EnablesThenOnly params i A := by
  cases h : params.hasInst i with
  | true => exact .inr ⟨.done, trivial, progClkEn_of_hasInst h⟩
  | false => exact .inl (by rw [progClkEn_of_no_inst h]; trivial)

/-- BASE_INIT writes PSC, ARR and CR of its timer after the clock (R121). -/
theorem progBaseInit_enables (params : Params) (i : Inst) (h : Snapshot) :
    (progBaseInit params i h).EnablesThenOnly params i (timerAccess i [.psc, .arr, .cr]) :=
  .inr ⟨_, by simp [timerAccess], rfl⟩

/-- A property kept by every access of a kind and by every callback program is kept by a run of accesses of that kind. -/
theorem runProg_all_of_only {A : Access → Prop} {P : State → Prop} {cb : CallbackRunner} (w : Word)
    (hp : ∀ a s t v, A a → P s → perform a s = .ok (t, v) → P t) (hcb : ∀ kind i s, P s → (cb kind i s).All P)
    (p : Prog) (hp' : p.Only A) (hs : P s) : (runProg cb w p s).All P := by
  induction p generalizing s with
  | done => exact hs
  | act a k ih =>
    obtain ⟨ha, hk⟩ := hp'
    cases hperf : perform a s with
    | error c =>
      simp only [runProg, hperf]
      exact hs
    | ok uv =>
      obtain ⟨u, v⟩ := uv
      have hu := hp a s u v ha hs hperf
      cases a
      case callback kind i =>
        have hcall := hcb kind i u hu
        simp only [runProg, hperf]
        cases hrun : cb kind i u with
        | ok u' =>
          rw [hrun] at hcall
          exact ih v (hk v) hcall
        | fault c w' u' => rwa [hrun] at hcall
        | refused r => trivial
      all_goals simpa only [runProg, hperf] using ih v (hk v) hu

/-- The same with a `ClockEnable(i)` first, where `P` holds after that too. -/
theorem Prog.EnablesThenOnly.runProg_all {i : Inst} {A : Access → Prop} {P : State → Prop} {cb : CallbackRunner}
    {p : Prog} (h : p.EnablesThenOnly s.cfg i A) (w : Word)
    (hp : ∀ a s t v, A a → P s → Machine.perform a s = .ok (t, v) → P t)
    (hcb : ∀ kind i s, P s → (cb kind i s).All P) (hs : P s) (henable : P (s.enableClock i)) :
    (runProg cb w p s).All P := by
  obtain h | ⟨k, hk, rfl⟩ := h
  · exact runProg_all_of_only w hp hcb p h hs
  · rw [runProg_clockEnable]
    exact runProg_all_of_only w hp hcb k hk henable

/-- A property kept by the run of a command's accesses, by its completion and by its fault is kept by the command. -/
theorem exec_of_run_all {P : State → Prop} {cmd : Instr}
    (hrun : ∀ snap, (runProg (callbackRunner cmd) (encode cmd) (commandProg cmd s.cfg snap) s).All P)
    (hadvance : ∀ s, P s → P s.advance) (hraise : ∀ s c w, P s → P (s.raise c w)) (hs : P s)
    (h : exec cmd s = .next t) : P t := by
  rw [exec_eq_wholeCommand] at h
  obtain ⟨-, ⟨c, -, rfl⟩ | ⟨snap, u, -, hu, rfl⟩ | ⟨snap, c, w, u, -, hu, rfl⟩⟩ := wholeCommand_cases h
  · exact hraise _ _ _ hs
  · have hP := hrun snap
    rw [hu] at hP
    exact hadvance _ hP
  · have hP := hrun snap
    rw [hu] at hP
    exact hraise _ _ _ hP

/-! ## The frame of CLK_EN and BASE_INIT -/

theorem State.clk_congr (hhs : t.clkHS = s.clkHS) (hls : t.clkLS = s.clkLS) (b : Bus) : t.clk b = s.clk b := by
  cases b
  · exact hhs
  · exact hls

/-- Everything but the clock bit of timer `i`, its registers `rs`, the command index and the fault state is the same. -/
def State.sameButClock (s t : State) (i : Inst) (rs : List Reg) : Prop :=
  s.sameTimersBut t i rs ∧ (∀ b, b ≠ s.cfg.busOf i → t.clk b = s.clk b)
    ∧ (∀ n, n ≠ s.cfg.bitOf i → (t.clk (s.cfg.busOf i)).getLsbD n = (s.clk (s.cfg.busOf i)).getLsbD n)
    ∧ s.sameOutsideTimers { t with clkHS := s.clkHS, clkLS := s.clkLS }

theorem State.sameButClock_refl (i : Inst) (rs : List Reg) : s.sameButClock s i rs :=
  ⟨fun _ _ _ => rfl, fun _ _ => rfl, fun _ _ => rfl, by simp [State.sameOutsideTimers]⟩

theorem State.sameButClock_enableClock (i : Inst) (rs : List Reg) : s.sameButClock (s.enableClock i) i rs := by
  refine ⟨fun j r _ => s.reg_setClk _ _ j r, fun _ => State.enableClock_clk_ne, fun n hn => ?_, ?_⟩
  · simp [State.enableClock_getLsbD, hn]
  · simp [State.sameOutsideTimers, State.enableClock]

/-- A step that stays outside the clock words, and outside all timer registers but those, keeps the frame. -/
theorem State.sameButClock.trans {i : Inst} {rs : List Reg} (h : s.sameButClock u i rs) (htimers : u.sameTimersBut t i rs)
    (houtside : u.sameOutsideTimers t) : s.sameButClock t i rs := by
  obtain ⟨hregs, hbus, hbit, hout⟩ := h
  have hclk : ∀ b, t.clk b = u.clk b := by
    obtain ⟨-, -, -, -, hhs, hls, -⟩ := houtside
    exact State.clk_congr hhs hls
  refine ⟨fun j r hr => (htimers j r hr).trans (hregs j r hr), fun b hb => (hclk b).trans (hbus b hb), fun n hn => ?_, ?_⟩
  · rw [hclk, hbit n hn]
  · simp only [State.sameOutsideTimers] at hout houtside ⊢
    simp_all

/-- The frame of a command that enables its timer's clock at most and then makes accesses of the registers `rs`. -/
theorem exec_clock_frame {i : Inst} {rs : List Reg} {cmd : Instr} (hd : isDispatch cmd = false)
    (hprog : ∀ snap, (commandProg cmd s.cfg snap).EnablesThenOnly s.cfg i (timerAccess i rs))
    (h : exec cmd s = .next t) : s.sameButClock t i rs := by
  refine exec_of_run_all (P := (s.sameButClock · i rs)) (fun snap => ?_) ?_ (fun _ _ _ hu => hu)
    (State.sameButClock_refl i rs) h
  · rw [callbackRunner_of_not_dispatch hd]
    refine (hprog snap).runProg_all _ (fun a u u' v ha hu hperf => ?_) (fun _ _ _ _ => trivial)
      (State.sameButClock_refl i rs) (State.sameButClock_enableClock i rs)
    obtain ⟨htimers, houtside⟩ :=
      perform_timerAccess (s := u) ha ⟨fun _ _ _ => rfl, by simp [State.sameOutsideTimers]⟩ hperf
    exact hu.trans htimers houtside
  · exact fun u hu => hu.trans (fun j r _ => u.reg_advance j r) (by simp [State.sameOutsideTimers])

/-! ## Who writes a clock word -/

/-- An access that leaves the clock words alone (R42). -/
def Access.keepsClocks : Access → Prop
  | .wrC _ _ => False
  | .rd _ _ | .wr _ _ _ | .rdC _ | .wrISER _ _ | .wrICER _ _ | .rdIPR _ | .wrIPR _ _ => True
  | .rdResult _ _ | .setResult _ | .setField _ _ _ | .callback _ _ => True

theorem timerAccess.keepsClocks {i : Inst} {rs : List Reg} : ∀ a, timerAccess i rs a → a.keepsClocks := by
  intro a ha
  cases a
  case wrC => exact ha
  all_goals trivial

theorem perform_clk {a : Access} {v : Word} (ha : a.keepsClocks) (h : perform a s = .ok (t, v)) (b : Bus) :
    t.clk b = s.clk b := by
  cases a <;> simp only [perform] at h
  case wrC => exact ha.elim
  case rd i r => split at h <;> simp_all
  case rdResult i r =>
    split at h
    · simp only [Except.ok.injEq, Prod.mk.injEq] at h
      obtain ⟨rfl, -⟩ := h
      exact State.clk_congr rfl rfl b
    · cases h
  case wr i r x =>
    split at h
    · rename_i u hw
      simp only [Except.ok.injEq, Prod.mk.injEq] at h
      obtain ⟨rfl, -⟩ := h
      obtain ⟨-, rfl⟩ | ⟨-, -, rfl⟩ := State.wr_cases hw <;> simp
    · cases h
  all_goals
    simp only [Except.ok.injEq, Prod.mk.injEq] at h
    obtain ⟨rfl, -⟩ := h
    exact State.clk_congr rfl rfl b

theorem perform_clocked {a : Access} {v : Word} {j : Inst} (ha : a.keepsClocks) (hs : s.clocked j = true)
    (h : perform a s = .ok (t, v)) : t.clocked j = true := by
  obtain ⟨hcfg, -⟩ := perform_keeps h
  rwa [State.clocked, hcfg, perform_clk ha h]

/-- Only CLK_EN and BASE_INIT write a clock word, and both do it by `ClockEnable` (R110, R111). -/
theorem commandProg_enables (cmd : Instr) (p : Params) (h : Snapshot) :
    ∃ i, (commandProg cmd p h).EnablesThenOnly p i Access.keepsClocks := by
  cases cmd with
  | clkEn i => exact ⟨i, progClkEn_enables p i _⟩
  | baseInit i => exact ⟨i, (progBaseInit_enables p i h).mono timerAccess.keepsClocks⟩
  | baseStart i | baseStop i | baseStartIt i | baseStopIt i =>
    exact ⟨i, .inl (by
      simp [commandProg, progBaseStart, progBaseStop, progBaseStartIt, progBaseStopIt, Access.keepsClocks])⟩
  | pwmInit i ch =>
    exact ⟨i, .inl (Prog.only_channelProg fun c => by
      simpa [Access.keepsClocks] using Prog.only_setMasterOutput trivial (fun _ => trivial))⟩
  | pwmStart i ch | pwmStop i ch | pwmSetDuty i ch _ | icInit i ch | icStartIt i ch | icStopIt i ch | icRead i ch =>
    exact ⟨i, .inl (Prog.only_channelProg fun c => by simp [Access.keepsClocks])⟩
  | irqDispatch i => exact ⟨i, .inl (Prog.only_progIrqDispatch trivial (fun _ => trivial) (fun _ => trivial))⟩
  | nvicSetEn en line => exact ⟨0, .inl (Prog.only_progNvicSetEn (fun _ _ => trivial) (fun _ _ => trivial))⟩
  | nvicSetPrio level line => exact ⟨0, .inl (by simp [commandProg, progNvicSetPrio, Access.keepsClocks])⟩
  | regRd i idx | regWr i idx _ => exact ⟨i, .inl (Prog.only_registerProg fun r => by simp [Access.keepsClocks])⟩
  | hset i fld val => exact ⟨i, .inl (by simp [commandProg, progHset, Access.keepsClocks])⟩

/-! ## Clocks stay on (R112) -/

section ClockStaysOn

variable {j : Inst}

/-- The accesses of a command in a row, between them the callback programs, which keep clocks on too. -/
theorem runProg_clocked {cb : CallbackRunner} (hcb : ∀ kind i s, s.clocked j = true → (cb kind i s).All (·.clocked j = true))
    (w : Word) (cmd : Instr) (snap : Snapshot) (hs : s.clocked j = true) :
    (runProg cb w (commandProg cmd s.cfg snap) s).All (·.clocked j = true) := by
  obtain ⟨i, hprog⟩ := commandProg_enables cmd s.cfg snap
  exact hprog.runProg_all w (fun _ _ _ _ => perform_clocked) hcb hs (State.clocked_enableClock hs)

theorem runCallbackWord_clocked (w : Word) (hs : s.clocked j = true) :
    (runCallbackWord w s).All (·.clocked j = true) := by
  unfold runCallbackWord
  split
  · exact hs
  · split
    · trivial
    · split
      · exact hs
      · exact runProg_clocked (cb := noCallback) (fun _ _ _ _ => trivial) w _ _ hs

theorem runWords_clocked (ws : List Word) (hs : s.clocked j = true) : (runWords ws s).All (·.clocked j = true) := by
  induction ws generalizing s with
  | nil => exact hs
  | cons w ws ih =>
    have hword := runCallbackWord_clocked w hs
    cases hrun : runCallbackWord w s with
    | ok u =>
      rw [hrun] at hword
      rw [runWords_cons_of_ok hrun]
      exact ih hword
    | fault c w' u =>
      rw [hrun] at hword
      rwa [runWords_cons_of_fault hrun]
    | refused r => simp [runWords, hrun, Run.All]

theorem callbackRunner_clocked (cmd : Instr) (kind : CallbackKind) (i : Inst) (s : State) (hs : s.clocked j = true) :
    (callbackRunner cmd kind i s).All (·.clocked j = true) := by
  unfold callbackRunner
  split
  · exact runWords_clocked _ hs
  · trivial

theorem exec_clocked {cmd : Instr} (hs : s.clocked j = true) (h : exec cmd s = .next t) : t.clocked j = true :=
  exec_of_run_all (P := (·.clocked j = true))
    (fun snap => runProg_clocked (callbackRunner_clocked cmd) (encode cmd) cmd snap hs)
    (fun u hu => (u.clocked_advance j).trans hu) (fun _ _ _ hu => hu) hs h

end ClockStaysOn

end Sys2Proof.Machine

namespace Sys2Proof.Proofs

open Sys2Proof Sys2Proof.Machine

/-- Settles O5: the run of CLK_EN is one `ClockEnable`, or nothing. -/
theorem clkEnSetsTheInstanceClockBit : Obligations.ClkEnSetsTheInstanceClockBit := by
  intro i s hfault
  refine ⟨fun hi => ?_, fun hi => ?_⟩
  · refine exec_of_run_ok (snap := {}) hfault rfl ?_
    rw [commandProg, progClkEn_of_hasInst hi, runProg_clockEnable]
    rfl
  · refine exec_of_run_ok (snap := {}) hfault rfl ?_
    rw [commandProg, progClkEn_of_no_inst hi]
    rfl

/-- Settles O11: CLK_EN and BASE_INIT by the frame of a `ClockEnable` and what follows it, the others by the registers they
write. -/
theorem baseCommandsLeaveEverythingElse : Obligations.BaseCommandsLeaveEverythingElse := by
  intro i s t
  refine ⟨?clkEn, ?baseInit, ?baseStart, ?baseStop, ?baseStartIt, ?baseStopIt⟩
  case clkEn => exact exec_clock_frame rfl fun _ => progClkEn_enables s.cfg i _
  case baseInit => exact exec_clock_frame rfl fun snap => progBaseInit_enables s.cfg i snap
  case baseStart => exact exec_timer_frame rfl fun _ => by simp [commandProg, progBaseStart, timerAccess]
  case baseStop => exact exec_timer_frame rfl fun _ => by simp [commandProg, progBaseStop, timerAccess]
  case baseStartIt => exact exec_timer_frame rfl fun _ => by simp [commandProg, progBaseStartIt, timerAccess]
  case baseStopIt => exact exec_timer_frame rfl fun _ => by simp [commandProg, progBaseStopIt, timerAccess]

/-- Settles O12: a clock word is written by `ClockEnable` alone, in a command and in the callback programs it runs. -/
theorem noWholeCommandClearsAClockBit : Obligations.NoWholeCommandClearsAClockBit :=
  fun _ _ _ _ h hs => exec_clocked hs h

end Sys2Proof.Proofs

/-!
PROOF. The obligations of 41_base.md: BASE_INIT (R121), and the commands that start and stop the base timer by read-modify-writes
of CR and IER (R122-R125).
-/
namespace Sys2Proof

/-! ## The word of a command without an immediate (R91) -/

theorem formatT_eq_or (o : Opcode) (i : Inst) (c : BitVec 3) :
    formatT o i c 0 = o.pattern ||| (i.setWidth 32 <<< 24) ||| (c.setWidth 32 <<< 21) := by
  apply BitVec.eq_of_getElem_eq
  intro k hk
  simp [formatT, Opcode.pattern]
  grind

theorem formatT_eq_pattern_or_inst (o : Opcode) (i : Inst) :
    formatT o i 0 0 = o.pattern ||| (i.setWidth 32 <<< 24) := by
  simpa using formatT_eq_or o i 0

end Sys2Proof

namespace Sys2Proof.Machine

open Sys2Proof

variable {s : State} {cmd : Instr} {i : Inst}

/-! ## The instance check (R120) -/

theorem startInst_of_no_inst (hi : s.cfg.hasInst i = false) (cmd : Instr) :
    startInst cmd i s = .error (.badInstance (encode cmd)) := by
  simp [startInst, checkInst_of_no_inst hi]

/-- What a command that checks its instance alone, and starts with a read-modify-write of a timer register, does without an
instance or a clock (R73, R120). -/
theorem instRules_of_readModifyWrite {r : Reg} {k : Prog} (g : Half → Half) (hfault : s.fault = none)
    (hstart : commandStart cmd s = startInst cmd i s)
    (hprog : commandProg cmd s.cfg {} = .rd i r fun x => .wr i r (g x) k) (hk : k.Only (Access.rdOrWr i)) :
    FaultsOnBadInstance cmd i s ∧ FaultsOnUnclocked cmd i r s ∧ IdlesOnUnclocked cmd i s := by
  have hok (hi : s.cfg.hasInst i = true) : commandStart cmd s = .ok {} := hstart.trans (startInst_of_hasInst hi cmd)
  refine ⟨fun hi => ?_, faultsOnUnclocked_of_rd hfault hok hprog, idlesOnUnclocked_of_only hfault hok ?_⟩
  · exact exec_of_start_error hfault (hstart.trans (startInst_of_no_inst hi cmd))
  · rw [hprog]
    simp [hk, Access.rdOrWr]

/-! ## Values that CR and IER store unchanged (R40, R71) -/

theorem State.namedBitsOnly.storedValue_or {r : Reg} {x : Half} (h : s.namedBitsOnly) (hr : r ≠ .sr)
    (hx : x &&& ~~~(s.cfg.writeMask r) = 0#16) :
    storedValue s.cfg r (s.reg i r) (s.reg i r ||| x) = s.reg i r ||| x :=
  storedValue_of_within _ _ _ hr (within_or (h i r) hx)

theorem State.namedBitsOnly.storedValue_and {r : Reg} (h : s.namedBitsOnly) (hr : r ≠ .sr) (x : Half) :
    storedValue s.cfg r (s.reg i r) (s.reg i r &&& x) = s.reg i r &&& x :=
  storedValue_of_within _ _ _ hr (within_and (h i r))

/-- Bit 0 of CR is CEN (R32), and that of IER is UIE (R33). -/
theorem bit0_within_cr (p : Params) : 0x0001#16 &&& ~~~(p.writeMask .cr) = 0#16 :=
  show 0x0001#16 &&& ~~~(Reg.namedMask .cr) = 0#16 by decide

theorem bit0_within_ier (p : Params) : 0x0001#16 &&& ~~~(p.writeMask .ier) = 0#16 :=
  show 0x0001#16 &&& ~~~(Reg.namedMask .ier) = 0#16 by decide

/-! ## Commands made of read-modify-writes -/

section ReadModifyWrite

variable {r q : Reg} (g h : Half → Half)

theorem runProg_readModifyWrite {cb : CallbackRunner} {w : Word} {k : Prog} (hclk : s.clocked i = true)
    (hstored : storedValue s.cfg r (s.reg i r) (g (s.reg i r)) = g (s.reg i r)) :
    runProg cb w (.rd i r fun x => .wr i r (g x) k) s = runProg cb w k (s.setReg i r (g (s.reg i r))) := by
  rw [runProg_rd hclk, runProg_wr hclk, hstored]

theorem exec_readModifyWrite {snap : Snapshot} (hfault : s.fault = none) (hclk : s.clocked i = true)
    (hstart : commandStart cmd s = .ok snap)
    (hprog : commandProg cmd s.cfg snap = .rd i r fun x => .wr i r (g x) .done)
    (hstored : storedValue s.cfg r (s.reg i r) (g (s.reg i r)) = g (s.reg i r)) :
    exec cmd s = .next (s.setReg i r (g (s.reg i r))).advance := by
  refine exec_of_run_ok hfault hstart ?_
  rw [hprog, runProg_readModifyWrite g hclk hstored]
  rfl

/-- The second read-modify-write is of another register, so it starts from what that held before the command. -/
theorem exec_twoReadModifyWrites {snap : Snapshot} (hfault : s.fault = none) (hclk : s.clocked i = true)
    (hstart : commandStart cmd s = .ok snap)
    (hprog : commandProg cmd s.cfg snap = .rd i r fun x => .wr i r (g x) <| .rd i q fun y => .wr i q (h y) .done)
    (hrq : r ≠ q) (hr : storedValue s.cfg r (s.reg i r) (g (s.reg i r)) = g (s.reg i r))
    (hq : storedValue s.cfg q (s.reg i q) (h (s.reg i q)) = h (s.reg i q)) :
    exec cmd s = .next ((s.setReg i r (g (s.reg i r))).setReg i q (h (s.reg i q))).advance := by
  have hkeep (v : Half) : (s.setReg i r v).reg i q = s.reg i q := s.reg_setReg_ne v (.inr hrq)
  refine exec_of_run_ok hfault hstart ?_
  rw [hprog, runProg_readModifyWrite g hclk hr,
    runProg_readModifyWrite h (by simpa using hclk) (by simpa [hkeep] using hq), hkeep]
  rfl

end ReadModifyWrite

/-! ## BASE_INIT (R121) -/

section SnapBase

variable {h : Handle} {p a : Half}

/-- The fields are looked at in the order of their ids, so the lowest unwritten one is reported (R302). -/
theorem snapBase_of_no_prescaler (hp : h.prescaler = none) : snapBase i h = .error (.unsetHandleField i 0) := by
  simp only [snapBase, needField, hp]
  rfl

theorem snapBase_of_no_period (hp : h.prescaler = some p) (ha : h.period = none) :
    snapBase i h = .error (.unsetHandleField i 1) := by
  simp only [snapBase, needField, hp, ha]
  rfl

theorem snapBase_of_no_direction (hp : h.prescaler = some p) (ha : h.period = some a) (hd : h.direction = none) :
    snapBase i h = .error (.unsetHandleField i 2) := by
  simp only [snapBase, needField, hp, ha, hd]
  rfl

end SnapBase

theorem startBaseInit_of_no_inst (hi : s.cfg.hasInst i = false) :
    startBaseInit i s = .error (.badInstance (encode (.baseInit i))) := by
  simp [startBaseInit, checkInst_of_no_inst hi]

theorem startBaseInit_of_hasInst (hi : s.cfg.hasInst i = true) : startBaseInit i s = snapBase i (s.handle i) := by
  simp [startBaseInit, checkInst_of_hasInst hi]

/-- Bit 4 of CR is DIR (R32). -/
theorem crWithDirection_eq (t : Half) (d : Direction) :
    crWithDirection t d = (t &&& ~~~0x0010#16) ||| (if d = .down then 0x0010#16 else 0#16) := by
  cases d <;> rfl

theorem State.namedBitsOnly.storedValue_crWithDirection (h : s.namedBitsOnly) (d : Direction) :
    storedValue s.cfg .cr (s.reg i .cr) (crWithDirection (s.reg i .cr) d) = crWithDirection (s.reg i .cr) d := by
  have hbit : ((Direction.code d).setWidth 16 <<< 4) &&& ~~~(Reg.namedMask .cr) = 0#16 := by cases d <;> decide
  exact storedValue_of_within _ _ _ (by decide) (within_or (within_and (h i .cr)) hbit)

@[simp] theorem State.enableClock_cfg (s : State) (i : Inst) : (s.enableClock i).cfg = s.cfg := s.setClk_cfg _ _

@[simp] theorem State.reg_enableClock (s : State) (i j : Inst) (r : Reg) : (s.enableClock i).reg j r = s.reg j r :=
  s.reg_setClk _ _ j r

/-- The accesses of BASE_INIT, whether or not the timer is clocked: it enables the clock itself, so none of them can fault
(R111). -/
theorem runProg_progBaseInit {cb : CallbackRunner} {w : Word} (hnamed : s.namedBitsOnly) (h : Snapshot) :
    runProg cb w (progBaseInit s.cfg i h) s
      = .ok ((((s.enableClock i).setReg i .psc h.prescaler).setReg i .arr h.period).setReg i .cr
          (crWithDirection (s.reg i .cr) h.direction)) := by
  have hclk : (s.enableClock i).clocked i = true := s.clocked_after_enable i
  have hcr (v v' : Half) : (((s.enableClock i).setReg i .psc v).setReg i .arr v').reg i .cr = s.reg i .cr := by
    simp [State.reg_setReg]
  have hdir := hnamed.storedValue_crWithDirection (i := i) h.direction
  rw [progBaseInit, runProg_clockEnable, ← State.enableClock, runProg_wr hclk, storedValue_psc,
    runProg_wr (by simpa using hclk), storedValue_arr,
    runProg_readModifyWrite (crWithDirection · h.direction) (by simpa using hclk) (by simpa [hcr] using hdir), hcr]
  rfl

end Sys2Proof.Machine

namespace Sys2Proof.Proofs

open Sys2Proof Sys2Proof.Machine

/-- Settles O6: the checks in the order of R302, and then the run of the accesses after a `ClockEnable`. -/
theorem baseInitProgramsClockPrescalerPeriodDirection :
    Obligations.BaseInitProgramsClockPrescalerPeriodDirection := by
  intro i s hfault
  refine ⟨fun hi => exec_of_start_error hfault (startBaseInit_of_no_inst hi), fun hi => ?_⟩
  have hstart : commandStart (.baseInit i) s = snapBase i (s.handle i) := startBaseInit_of_hasInst hi
  refine ⟨fun hp => exec_of_start_error hfault (hstart.trans (snapBase_of_no_prescaler hp)), fun p hp => ?_⟩
  refine ⟨fun ha => exec_of_start_error hfault (hstart.trans (snapBase_of_no_period hp ha)), fun a ha => ?_⟩
  refine ⟨fun hd => exec_of_start_error hfault (hstart.trans (snapBase_of_no_direction hp ha hd)),
    fun d hd hnamed => ?_⟩
  rw [← crWithDirection_eq]
  exact exec_of_run_ok hfault (startBaseInit_of_complete hi hp ha hd) (runProg_progBaseInit hnamed _)

/-- Settles O7: the word is that of the command, whose accesses are one read-modify-write of CR. -/
theorem baseStartSetsCen : Obligations.BaseStartSetsCen := by
  refine ⟨fun i => decode_eq_ok_iff.mpr ⟨formatT_eq_pattern_or_inst .baseStart i, rfl⟩, fun i s hfault => ?_⟩
  obtain ⟨hbad, hunclocked, hidle⟩ :=
    instRules_of_readModifyWrite (cmd := .baseStart i) (r := .cr) (· ||| 0x0001#16) hfault rfl rfl trivial
  refine ⟨hbad, hunclocked, hidle, fun ⟨_, hi, hclk⟩ hnamed => ?_⟩
  exact exec_readModifyWrite (· ||| 0x0001#16) hfault hclk (startInst_of_hasInst hi _) rfl
    (hnamed.storedValue_or (by decide) (bit0_within_cr _))

/-- Settles O8: as O7, with the bit taken out of CR. -/
theorem baseStopClearsCen : Obligations.BaseStopClearsCen := by
  refine ⟨fun i => decode_eq_ok_iff.mpr ⟨formatT_eq_pattern_or_inst .baseStop i, rfl⟩, fun i s hfault => ?_⟩
  obtain ⟨hbad, hunclocked, hidle⟩ :=
    instRules_of_readModifyWrite (cmd := .baseStop i) (r := .cr) (· &&& ~~~0x0001#16) hfault rfl rfl trivial
  refine ⟨hbad, hunclocked, hidle, fun ⟨_, hi, hclk⟩ hnamed => ?_⟩
  exact exec_readModifyWrite (· &&& ~~~0x0001#16) hfault hclk (startInst_of_hasInst hi _) rfl
    (hnamed.storedValue_and (by decide) _)

/-- Settles O9: each command is two read-modify-writes, of IER and CR in the one order and in the other. -/
theorem baseItCommandsSetAndClearUieAndCen : Obligations.BaseItCommandsSetAndClearUieAndCen := by
  intro i s hfault
  refine ⟨?startRules, ?stopRules, fun ⟨_, hi, hclk⟩ hnamed => ⟨?start, ?stop⟩⟩
  case startRules =>
    exact instRules_of_readModifyWrite (· ||| 0x0001#16) hfault rfl rfl (by simp [Access.rdOrWr])
  case stopRules =>
    exact instRules_of_readModifyWrite (· &&& ~~~0x0001#16) hfault rfl rfl (by simp [Access.rdOrWr])
  case start =>
    exact exec_twoReadModifyWrites (· ||| 0x0001#16) (· ||| 0x0001#16) hfault hclk (startInst_of_hasInst hi _) rfl
      (by decide) (hnamed.storedValue_or (by decide) (bit0_within_ier _))
      (hnamed.storedValue_or (by decide) (bit0_within_cr _))
  case stop =>
    exact exec_twoReadModifyWrites (· &&& ~~~0x0001#16) (· &&& ~~~0x0001#16) hfault hclk (startInst_of_hasInst hi _)
      rfl (by decide) (hnamed.storedValue_and (by decide) _) (hnamed.storedValue_and (by decide) _)

end Sys2Proof.Proofs

/-!
PROOF. The obligations of 42_mapper.md: the table of the four channels (R141-R144), the bit-by-bit updates of the mode registers
and of EPR (R145, R146, R148), the patterns they write (R149, R150), and the per-channel commands that use them: PWM_INIT (R160),
PWM_SET_DUTY (R163), IC_START_IT and IC_STOP_IT (R181, R182).
-/
namespace Sys2Proof

/-! ## The table of the channels (R141-R144) -/

theorem Channel.exists_ofRaw_iff :
    ∀ ch : BitVec 3, (∃ c, Channel.ofRaw ch = some c) ↔ 1 ≤ ch.toNat ∧ ch.toNat ≤ 4 := by
  simp only [← Option.isSome_iff_exists]
  decide

theorem Channel.modeReg_eq (c : Channel) : c.modeReg = if c.num ≤ 2 then .mra else .mrb := by
  cases c <;> rfl

theorem Channel.byteShift_eq (c : Channel) : c.byteShift = if c.num % 2 = 1 then 0 else 8 := by
  cases c <;> rfl

theorem Channel.index_ccr (c : Channel) : Reg.index c.ccr = BitVec.ofNat 4 (7 + c.num) := by
  cases c <;> rfl

theorem Channel.modeReg_ne_brk (c : Channel) : c.modeReg ≠ .brk := by
  cases c <;> decide

theorem Channel.ccr_ne_brk (c : Channel) : c.ccr ≠ .brk := by
  cases c <;> decide

end Sys2Proof

namespace Sys2Proof.Machine

open Sys2Proof

variable {s : State} {cmd : Instr} {i : Inst} {ch : BitVec 3} {c : Channel}

/-! ## The updates, bit by bit (R145, R146, R148) -/

section Bits

variable {n : Nat}

/-- MODE of the mode byte (R35). -/
theorem getLsbD_modeMask : ∀ k < 16, (0x00F0#16).getLsbD k = decide (4 ≤ k ∧ k < 8) := by decide

/-- FILT and SEL of the mode byte (R35). -/
theorem getLsbD_captureMask : ∀ k < 16, (0x00F3#16).getLsbD k = decide (k < 2 ∨ 4 ≤ k ∧ k < 8) := by decide

/-- PE of the mode byte (R35). -/
theorem getLsbD_preloadMask : ∀ k < 16, (0x0008#16).getLsbD k = decide (k = 3) := by decide

theorem getLsbD_shiftedMask {x : Half} {P : Nat → Prop} [DecidablePred P] (hx : ∀ k < 16, x.getLsbD k = decide (P k))
    (p : Nat) (hn : n < 16) : (x <<< p).getLsbD n = decide (p ≤ n ∧ P (n - p)) := by
  rw [BitVec.getLsbD_shiftLeft, hx (n - p) (by omega)]
  grind

/-- A field put at bit `p` of a register. -/
theorem getLsbD_shiftedField {w : Nat} (x : BitVec w) (p : Nat) (hn : n < 16) :
    (x.setWidth 16 <<< p).getLsbD n = if p ≤ n ∧ n < p + w then x.getLsbD (n - p) else false := by
  rw [BitVec.getLsbD_shiftLeft, BitVec.getLsbD_setWidth]
  split <;> grind

theorem getLsbD_pwmMr (t : Half) (c : Channel) (m : BitVec 4) (hn : n < 16) :
    (pwmMr t c m).getLsbD n
      = if c.byteShift + 4 ≤ n ∧ n < c.byteShift + 8 then m.getLsbD (n - (c.byteShift + 4))
        else if n = c.byteShift + 3 then true else t.getLsbD n := by
  rw [pwmMr, BitVec.getLsbD_or, BitVec.getLsbD_or, BitVec.getLsbD_and, BitVec.getLsbD_not,
    getLsbD_shiftedMask getLsbD_modeMask _ hn, getLsbD_shiftedMask getLsbD_preloadMask _ hn, getLsbD_shiftedField m _ hn]
  split
  · grind
  · split <;> grind

theorem getLsbD_icMr (t : Half) (c : Channel) (e : BitVec 2) (f : BitVec 4) (hn : n < 16) :
    (icMr t c e f).getLsbD n
      = if c.byteShift + 4 ≤ n ∧ n < c.byteShift + 8 then f.getLsbD (n - (c.byteShift + 4))
        else if c.byteShift ≤ n ∧ n < c.byteShift + 2 then e.getLsbD (n - c.byteShift)
        else t.getLsbD n := by
  rw [icMr, BitVec.getLsbD_or, BitVec.getLsbD_or, BitVec.getLsbD_and, BitVec.getLsbD_not,
    getLsbD_shiftedMask getLsbD_captureMask _ hn, getLsbD_shiftedField e _ hn, getLsbD_shiftedField f _ hn]
  split
  · grind
  · split <;> grind

/-- Under any clear mask: in the channel's group a bit that the mask does not clear is OR'd with its old value. -/
theorem getLsbD_eprSet (clear : BitVec 4) (t : Half) (c : Channel) (pat : BitVec 4) (hn : n < 16) :
    (eprSet clear t c pat).getLsbD n
      = if c.groupShift ≤ n ∧ n < c.groupShift + 4 then
          pat.getLsbD (n - c.groupShift) || (!clear.getLsbD (n - c.groupShift) && t.getLsbD n)
        else t.getLsbD n := by
  rw [eprSet, BitVec.getLsbD_or, BitVec.getLsbD_and, BitVec.getLsbD_not, getLsbD_shiftedField clear _ hn,
    getLsbD_shiftedField pat _ hn]
  split <;> grind

/-! The two values of P8: 0xF clears the whole group, 0xB its named bits. -/

theorem getLsbD_fullClear : ∀ k < 4, (0xF : BitVec 4).getLsbD k = true := by decide

theorem getLsbD_namedClear : ∀ k < 4, (0xB : BitVec 4).getLsbD k = !decide (k = 2) := by decide

theorem getLsbD_eprSet_full (t : Half) (c : Channel) (pat : BitVec 4) (hn : n < 16) :
    (eprSet 0xF t c pat).getLsbD n
      = if c.groupShift ≤ n ∧ n < c.groupShift + 4 then pat.getLsbD (n - c.groupShift) else t.getLsbD n := by
  rw [getLsbD_eprSet _ t c pat hn]
  split
  · rw [getLsbD_fullClear _ (by omega), Bool.not_true, Bool.false_and, Bool.or_false]
  · rfl

theorem getLsbD_eprSet_named (t : Half) (c : Channel) (pat : BitVec 4) (hn : n < 16) :
    (eprSet 0xB t c pat).getLsbD n
      = if c.groupShift ≤ n ∧ n < c.groupShift + 4 then
          pat.getLsbD (n - c.groupShift) || (decide (n = c.groupShift + 2) && t.getLsbD n)
        else t.getLsbD n := by
  rw [getLsbD_eprSet _ t c pat hn]
  split
  · have hbit : n - c.groupShift = 2 ↔ n = c.groupShift + 2 := by omega
    rw [getLsbD_namedClear _ (by omega), Bool.not_not, decide_eq_decide.mpr hbit]
  · rfl

/-- The two clear masks differ in bit 2 of the group alone, which is no named bit (R36, R148). -/
theorem eprSet_named_eq_full {t : Half} (h : t.getLsbD (c.groupShift + 2) = false) (pat : BitVec 4) :
    eprSet 0xB t c pat = eprSet 0xF t c pat := by
  refine BitVec.eq_of_getLsbD_eq fun n hn => ?_
  rw [getLsbD_eprSet_named t c pat hn, getLsbD_eprSet_full t c pat hn]
  by_cases hbit : n = c.groupShift + 2
  · subst hbit
    simp [h]
  · simp [hbit]

end Bits

/-! ## What every per-channel command does without a timer, a channel or a clock (R73, R140) -/

theorem channelRules_of_startChannel {snap : Except FaultCause Snapshot} {p : Snapshot → Channel → Prog}
    (hfault : s.fault = none) (hstart : commandStart cmd s = startChannel cmd i ch snap s)
    (hprog : ∀ h, commandProg cmd s.cfg h = channelProg ch (p h)) :
    FaultsOnBadInstance cmd i s ∧ BadChannelRule cmd i ch s :=
  ⟨faultsOnBadInstance_of_startChannel hfault hstart, badChannelRule_of_startChannel hfault hstart hprog⟩

theorem unclockedRules_of_rd {r : Reg} {snap : Snapshot} {k : Half → Prog} (hfault : s.fault = none)
    (hstart : s.cfg.hasInst i = true → commandStart cmd s = .ok snap) (hprog : commandProg cmd s.cfg snap = .rd i r k)
    (hk : ∀ v, (k v).Only (Access.rdOrWr i)) : FaultsOnUnclocked cmd i r s ∧ IdlesOnUnclocked cmd i s := by
  refine ⟨faultsOnUnclocked_of_rd hfault hstart hprog, idlesOnUnclocked_of_only hfault hstart ?_⟩
  rw [hprog]
  exact ⟨rfl, fun v => hk _⟩

theorem unclockedRules_of_wr {r : Reg} {v : Half} {snap : Snapshot} {k : Prog} (hfault : s.fault = none)
    (hstart : s.cfg.hasInst i = true → commandStart cmd s = .ok snap) (hprog : commandProg cmd s.cfg snap = .wr i r v k)
    (hk : k.Only (Access.rdOrWr i)) : FaultsOnUnclocked cmd i r s ∧ IdlesOnUnclocked cmd i s := by
  refine ⟨faultsOnUnclocked_of_wr hfault hstart hprog, idlesOnUnclocked_of_only hfault hstart ?_⟩
  rw [hprog]
  exact ⟨rfl, fun _ => hk⟩

/-! ## PWM_INIT (R160) -/

section SnapPwm

variable {h : Handle} {m : BitVec 4} {v : Half} {q : OcPolarity}

/-- The fields are looked at in the order of their ids, so the lowest unwritten one is reported (R302). -/
theorem snapPwm_of_no_mode (hm : h.ocMode = none) : snapPwm i h = .error (.unsetHandleField i 3) := by
  simp only [snapPwm, needField, hm]
  rfl

theorem snapPwm_of_no_pulse (hm : h.ocMode = some m) (hv : h.pulse = none) :
    snapPwm i h = .error (.unsetHandleField i 4) := by
  simp only [snapPwm, needField, hm, hv]
  rfl

theorem snapPwm_of_no_polarity (hm : h.ocMode = some m) (hv : h.pulse = some v) (hq : h.ocPolarity = none) :
    snapPwm i h = .error (.unsetHandleField i 5) := by
  simp only [snapPwm, needField, hm, hv, hq]
  rfl

theorem snapPwm_of_complete (hm : h.ocMode = some m) (hv : h.pulse = some v) (hq : h.ocPolarity = some q) :
    snapPwm i h = .ok { ocMode := m, pulse := v, ocPolarity := q } := by
  simp only [snapPwm, needField, hm, hv, hq]
  rfl

end SnapPwm

theorem commandStart_pwmInit (hi : s.cfg.hasInst i = true) (hch : Channel.ofRaw ch = some c) :
    commandStart (.pwmInit i ch) s = snapPwm i (s.handle i) :=
  startChannel_of_channel hi hch

section RunPwmInit

variable {cb : CallbackRunner} {w : Word}

/-- Bit 15 of BRK is MOE (R39). -/
theorem State.namedBitsOnly.storedValue_masterOutput (h : s.namedBitsOnly) (i : Inst) :
    storedValue s.cfg .brk (s.reg i .brk) (s.reg i .brk ||| 0x8000#16) = s.reg i .brk ||| 0x8000#16 :=
  h.storedValue_or (by decide) (show 0x8000#16 &&& ~~~(Reg.namedMask .brk) = 0#16 by decide)

theorem State.namedBitsOnly.storedValue_eprSet (h : s.namedBitsOnly) (i : Inst) (c : Channel) (q : OcPolarity) :
    storedValue s.cfg .epr (s.reg i .epr) (eprSet s.cfg.ccerClearMask (s.reg i .epr) c (patPwm q))
      = eprSet s.cfg.ccerClearMask (s.reg i .epr) c (patPwm q) :=
  and_mask_of_within (eprSet_patPwm_within s.cfg c _ q (h i .epr))

theorem runProg_setMasterOutput_of_advanced (hclk : s.clocked i = true)
    (hstored : storedValue s.cfg .brk (s.reg i .brk) (s.reg i .brk ||| 0x8000#16) = s.reg i .brk ||| 0x8000#16)
    {p : Params} (hi : i = p.advancedInst) :
    runProg cb w (setMasterOutput p i) s = .ok (s.setReg i .brk (s.reg i .brk ||| 0x8000#16)) := by
  rw [setMasterOutput, if_pos hi, runProg_readModifyWrite (· ||| 0x8000#16) hclk hstored]
  rfl

theorem runProg_setMasterOutput_of_not_advanced {p : Params} (hi : i ≠ p.advancedInst) :
    runProg cb w (setMasterOutput p i) s = .ok s := by
  rw [setMasterOutput, if_neg hi]
  rfl

/-- The state after the accesses of PWM_INIT to the channel's own registers. -/
def State.programPwm (s : State) (i : Inst) (c : Channel) (h : Snapshot) : State :=
  ((s.setReg i c.modeReg (pwmMr (s.reg i c.modeReg) c h.ocMode)).setReg i .epr
    (eprSet s.cfg.ccerClearMask (s.reg i .epr) c (patPwm h.ocPolarity))).setReg i c.ccr h.pulse

@[simp] theorem State.programPwm_cfg (h : Snapshot) : (s.programPwm i c h).cfg = s.cfg := rfl

@[simp] theorem State.clocked_programPwm (h : Snapshot) : (s.programPwm i c h).clocked i = s.clocked i := by
  simp [State.programPwm]

@[simp] theorem State.reg_brk_programPwm (h : Snapshot) : (s.programPwm i c h).reg i .brk = s.reg i .brk := by
  simp [State.programPwm, State.reg_setReg, Channel.modeReg_ne_brk, Channel.ccr_ne_brk]

/-- All three values fit their registers, so the write masks drop nothing (R40, R71). -/
theorem runProg_progPwmInit (hclk : s.clocked i = true) (hnamed : s.namedBitsOnly) (hch : Channel.ofRaw ch = some c)
    (h : Snapshot) :
    runProg cb w (progPwmInit s.cfg i ch h) s = runProg cb w (setMasterOutput s.cfg i) (s.programPwm i c h) := by
  have hmode := storedValue_modeReg s.cfg c (s.reg i c.modeReg) (pwmMr_within c h.ocMode (hnamed.modeReg i c))
  have hepr := hnamed.storedValue_eprSet i c h.ocPolarity
  have hkeep (v : Half) : (s.setReg i c.modeReg v).reg i .epr = s.reg i .epr :=
    s.reg_setReg_ne v (.inr (Channel.modeReg_ne_epr c))
  rw [progPwmInit, channelProg_of_channel hch, runProg_readModifyWrite (pwmMr · c h.ocMode) hclk hmode,
    runProg_readModifyWrite (eprSet s.cfg.ccerClearMask · c (patPwm h.ocPolarity)) (by simpa using hclk)
      (by simpa [hkeep] using hepr),
    runProg_wr (by simpa using hclk), storedValue_ccr, hkeep]
  rfl

end RunPwmInit

/-! ## IC_START_IT and IC_STOP_IT (R181, R182) -/

theorem State.namedBitsOnly.storedValue_channelInterrupt (h : s.namedBitsOnly) (i : Inst) (c : Channel) :
    storedValue s.cfg .ier (s.reg i .ier) (s.reg i .ier ||| (1#16 <<< c.num)) = s.reg i .ier ||| (1#16 <<< c.num) :=
  h.storedValue_or (by decide) (bit_within_ier c)

end Sys2Proof.Machine

namespace Sys2Proof.Proofs

open Sys2Proof Sys2Proof.Machine

/-- Settles O18: the checks in the order of R302, and then the run of the accesses, with MOE and without. -/
theorem pwmInitProgramsTheChannel : Obligations.PwmInitProgramsTheChannel := by
  intro i ch s hfault
  obtain ⟨hinst, hchannel⟩ :=
    channelRules_of_startChannel (cmd := .pwmInit i ch) (i := i) (ch := ch) hfault rfl (fun _ => rfl)
  refine ⟨hinst, hchannel, fun c hch hi => ?_⟩
  have hstart := commandStart_pwmInit hi hch
  refine ⟨fun hm => exec_of_start_error hfault (hstart.trans (snapPwm_of_no_mode hm)), fun m hm => ?_⟩
  refine ⟨fun hv => exec_of_start_error hfault (hstart.trans (snapPwm_of_no_pulse hm hv)), fun v hv => ?_⟩
  refine ⟨fun hq => exec_of_start_error hfault (hstart.trans (snapPwm_of_no_polarity hm hv hq)), fun q hq => ?_⟩
  have hok := hstart.trans (snapPwm_of_complete hm hv hq)
  obtain ⟨hunclocked, hidle⟩ := unclockedRules_of_rd hfault (fun _ => hok) (channelProg_of_channel hch _)
    fun _ => by simpa [Access.rdOrWr] using Prog.only_setMasterOutput (A := Access.rdOrWr i) rfl (fun _ => rfl)
  refine ⟨hunclocked, hidle, fun hclk hnamed => ?_⟩
  split
  case isTrue hadv =>
    refine exec_of_run_ok hfault hok ((runProg_progPwmInit hclk hnamed hch _).trans ?_)
    rw [runProg_setMasterOutput_of_advanced (by simpa using hclk) (by simpa using hnamed.storedValue_masterOutput i) hadv,
      State.reg_brk_programPwm]
    rfl
  case isFalse hadv =>
    exact exec_of_run_ok hfault hok
      ((runProg_progPwmInit hclk hnamed hch _).trans (runProg_setMasterOutput_of_not_advanced hadv))

/-- Settles O14: the three terms of R145, bit by bit. -/
theorem pwmModeUpdateReplacesModeAndSetsPreload : Obligations.PwmModeUpdateReplacesModeAndSetsPreload :=
  fun t c m _ hn => getLsbD_pwmMr t c m hn

/-- Settles O15: the three terms of R146, bit by bit. -/
theorem captureModeUpdateReplacesSelectionAndFilter : Obligations.CaptureModeUpdateReplacesSelectionAndFilter :=
  fun t c e f _ hn => getLsbD_icMr t c e f hn

/-- Settles O16: `getLsbD_eprSet` under each mask; they differ in a bit that is 0 in the old value. -/
theorem enablePolarityUpdateRewritesOneGroup : Obligations.EnablePolarityUpdateRewritesOneGroup :=
  fun t c pat => ⟨fun _ hn => getLsbD_eprSet_full t c pat hn, fun _ hn => getLsbD_eprSet_named t c pat hn,
    fun h => eprSet_named_eq_full h pat⟩

/-- Settles O13: each column of the table by the channel's number, which is the raw field. -/
theorem mapperTableOfTheFourChannels : Obligations.MapperTableOfTheFourChannels := by
  intro ch
  refine ⟨(Channel.exists_ofRaw_iff ch).symm, fun c hch => ?_⟩
  rw [← Channel.num_of_ofRaw ch c hch]
  exact ⟨rfl, c.modeReg_eq, c.byteShift_eq, rfl, c.index_ccr⟩

/-- Settles O17, by evaluation. -/
theorem polarityPatterns : Obligations.PolarityPatterns := ⟨rfl, rfl, rfl, rfl, rfl⟩

/-- Settles O20: the command is one write, of a register that stores every bit (R38). -/
theorem pwmSetDutyWritesTheCompareRegister : Obligations.PwmSetDutyWritesTheCompareRegister := by
  intro i ch v s hfault
  obtain ⟨hinst, hchannel⟩ :=
    channelRules_of_startChannel (cmd := .pwmSetDuty i ch v) (i := i) (ch := ch) hfault rfl (fun _ => rfl)
  refine ⟨hinst, hchannel, fun c hch => ?_⟩
  have hstart (hi : s.cfg.hasInst i = true) : commandStart (.pwmSetDuty i ch v) s = .ok {} :=
    startChannel_of_channel hi hch
  have hprog : commandProg (.pwmSetDuty i ch v) s.cfg {} = .wr i c.ccr v .done := channelProg_of_channel hch _
  obtain ⟨hunclocked, hidle⟩ := unclockedRules_of_wr hfault hstart hprog trivial
  refine ⟨hunclocked, hidle, fun ⟨_, hi, hclk⟩ => exec_of_run_ok hfault (hstart hi) ?_⟩
  rw [hprog, runProg_wr hclk, storedValue_ccr]
  rfl

/-- Settles O24: IC_START_IT is two read-modify-writes, of IER and of CR, and IC_STOP_IT is one, of IER. -/
theorem icItCommandsSwitchTheChannelInterrupt : Obligations.IcItCommandsSwitchTheChannelInterrupt := by
  intro i ch s hfault
  refine ⟨channelRules_of_startChannel hfault rfl (fun _ => rfl),
    channelRules_of_startChannel hfault rfl (fun _ => rfl), fun c hch => ?_⟩
  have hstart (cmd : Instr) (hi : s.cfg.hasInst i = true) : startChannel cmd i ch (.ok {}) s = .ok {} :=
    startChannel_of_channel hi hch
  refine ⟨?startRules, ?stopRules, fun ⟨_, hi, hclk⟩ hnamed => ?_⟩
  case startRules =>
    exact unclockedRules_of_rd hfault (hstart _) (channelProg_of_channel hch _) fun _ => by simp [Access.rdOrWr]
  case stopRules =>
    exact unclockedRules_of_rd hfault (hstart _) (channelProg_of_channel hch _) fun _ => by simp [Access.rdOrWr]
  rw [← Channel.num_of_ofRaw ch c hch]
  constructor
  · exact exec_twoReadModifyWrites (· ||| (1#16 <<< c.num)) (· ||| 0x0001#16) hfault hclk (hstart _ hi)
      (channelProg_of_channel hch _) (by decide) (hnamed.storedValue_channelInterrupt i c)
      (hnamed.storedValue_or (by decide) (bit0_within_cr _))
  · exact exec_readModifyWrite (· &&& ~~~(1#16 <<< c.num)) hfault hclk (hstart _ hi) (channelProg_of_channel hch _)
      (hnamed.storedValue_and (by decide) _)

end Sys2Proof.Proofs

/-!
PROOF. The obligations of 43_pwm.md: PWM_START and PWM_STOP (R161, R162), the frame of the PWM commands (R160-R163), and the
duty that IC_READ reads back (R164).
-/
namespace Sys2Proof.Machine

open Sys2Proof

variable {s : State} {cmd : Instr} {i : Inst} {ch : BitVec 3} {c : Channel}

/-! ## A timer stays ready -/

@[simp] theorem State.ready_setReg {j : Inst} {r : Reg} {v : Half} : (s.setReg j r v).ready i ↔ s.ready i := by
  simp [State.ready]

@[simp] theorem State.ready_advance : s.advance.ready i ↔ s.ready i := by
  simp [State.ready]

/-! ## A channel command that is one read-modify-write (R161, R162) -/

/-- Such a command, without a handle field to read: its fault rules, and the one register it changes. -/
theorem rules_of_channelReadModifyWrite {r : Reg} (g : Channel → Half → Half) (hfault : s.fault = none)
    (hstart : commandStart cmd s = startChannel cmd i ch (.ok {}) s)
    (hprog : ∀ snap, commandProg cmd s.cfg snap = channelProg ch fun c => .rd i r fun x => .wr i r (g c x) .done) :
    (FaultsOnBadInstance cmd i s ∧ BadChannelRule cmd i ch s)
    ∧ ∀ c, Channel.ofRaw ch = some c →
      (FaultsOnUnclocked cmd i r s ∧ IdlesOnUnclocked cmd i s)
      ∧ (s.ready i → storedValue s.cfg r (s.reg i r) (g c (s.reg i r)) = g c (s.reg i r) →
          exec cmd s = .next (s.setReg i r (g c (s.reg i r))).advance) := by
  refine ⟨channelRules_of_startChannel hfault hstart hprog, fun c hch => ?_⟩
  have hok (hi : s.cfg.hasInst i = true) : commandStart cmd s = .ok {} :=
    hstart.trans (startChannel_of_channel hi hch)
  have hprog' := (hprog {}).trans (channelProg_of_channel hch _)
  refine ⟨unclockedRules_of_rd hfault hok hprog' fun _ => by simp [Access.rdOrWr], fun ⟨_, hi, hclk⟩ hstored => ?_⟩
  exact exec_readModifyWrite (g c) hfault hclk (hok hi) hprog' hstored

/-! ## The channel-enable bit (R36) -/

theorem State.namedBitsOnly.storedValue_channelEnable (h : s.namedBitsOnly) (i : Inst) (c : Channel) :
    storedValue s.cfg .epr (s.reg i .epr) (s.reg i .epr ||| (1#16 <<< c.groupShift))
      = s.reg i .epr ||| (1#16 <<< c.groupShift) :=
  h.storedValue_or (by decide) (enable_within_epr s.cfg c)

theorem Channel.groupShift_of_ofRaw (h : Channel.ofRaw ch = some c) : c.groupShift = 4 * (ch.toNat - 1) := by
  rw [Channel.groupShift, Channel.num_of_ofRaw ch c h]

/-! ## The registers PWM_INIT writes (R160) -/

theorem Prog.only_progPwmInit {p : Params} {rs : List Reg} (hch : Channel.ofRaw ch = some c)
    (hrs : [c.modeReg, .epr, c.ccr] ⊆ rs) (hmoe : (setMasterOutput p i).Only (timerAccess i rs)) (h : Snapshot) :
    (progPwmInit p i ch h).Only (timerAccess i rs) := by
  obtain ⟨hmode, hepr, hccr⟩ : c.modeReg ∈ rs ∧ .epr ∈ rs ∧ c.ccr ∈ rs := by simpa using hrs
  rw [progPwmInit, channelProg_of_channel hch]
  simp [timerAccess, hmode, hepr, hccr, hmoe]

/-- On every instance: BRK is the only register the last two steps write. -/
theorem Prog.only_progPwmInit_brk (p : Params) (hch : Channel.ofRaw ch = some c) (h : Snapshot) :
    (progPwmInit p i ch h).Only (timerAccess i [c.modeReg, .epr, c.ccr, .brk]) :=
  Prog.only_progPwmInit hch (by simp)
    (Prog.only_setMasterOutput trivial fun _ => by simp [timerAccess]) h

/-- Off the advanced instance BRK is not accessed (R160). -/
theorem Prog.only_progPwmInit_of_not_advanced {p : Params} (hadv : i ≠ p.advancedInst)
    (hch : Channel.ofRaw ch = some c) (h : Snapshot) :
    (progPwmInit p i ch h).Only (timerAccess i [c.modeReg, .epr, c.ccr]) :=
  Prog.only_progPwmInit hch (List.Subset.refl _) (by simp [setMasterOutput, hadv]) h

/-! ## IC_READ (R183) -/

/-- IC_READ puts in `result` whatever its read answers. -/
theorem exec_icRead_of_rd {v : Half} (hfault : s.fault = none) (hi : s.cfg.hasInst i = true)
    (hch : Channel.ofRaw ch = some c) (hread : s.rd i c.ccr = .ok v) :
    exec (.icRead i ch) s = .next ({ s with result := v.setWidth 32 } : State).advance := by
  refine exec_of_run_ok (snap := {}) hfault (startChannel_of_channel hi hch) ?_
  rw [commandProg, progIcRead, channelProg_of_channel hch]
  simp only [Prog.perform, runProg, perform, hread]

end Sys2Proof.Machine

namespace Sys2Proof.Proofs

open Sys2Proof Sys2Proof.Machine

/-- Settles O21: the state after PWM_SET_DUTY is still ready, and its compare register holds the duty. -/
theorem dutyIsReadBackByIcRead : Obligations.DutyIsReadBackByIcRead := by
  intro i ch v s hready ⟨c, hch⟩
  obtain ⟨-, -, hduty⟩ := pwmSetDutyWritesTheCompareRegister i ch v s hready.1
  obtain ⟨-, -, hset⟩ := hduty c hch
  obtain ⟨hfault, hi, hclk⟩ : (s.setReg i c.ccr v).advance.ready i := by simpa using hready
  have hread : (s.setReg i c.ccr v).advance.rd i c.ccr = .ok v := by simp [State.rd_of_clocked hclk]
  exact ⟨_, _, hset hready, exec_icRead_of_rd hfault hi hch hread, State.advance_result _⟩

/-- Settles O22, by the registers each command writes. -/
theorem pwmCommandsLeaveEverythingElse : Obligations.PwmCommandsLeaveEverythingElse := by
  intro i ch v s t c hch
  refine ⟨fun h => ?init, exec_timer_frame rfl fun _ => ?start, exec_timer_frame rfl fun _ => ?stop,
    exec_timer_frame rfl fun _ => ?setDuty⟩
  case init =>
    obtain ⟨htimers, houtside⟩ := exec_timer_frame rfl (Prog.only_progPwmInit_brk s.cfg hch) h
    refine ⟨htimers, houtside, fun hadv => ?_⟩
    obtain ⟨hbrk, -⟩ := exec_timer_frame rfl (Prog.only_progPwmInit_of_not_advanced hadv hch) h
    exact hbrk i .brk (.inr (by simp [(Channel.modeReg_ne_brk c).symm, (Channel.ccr_ne_brk c).symm]))
  case start => simp [commandProg, progPwmStart, channelProg_of_channel hch, timerAccess]
  case stop => simp [commandProg, progPwmStop, channelProg_of_channel hch, timerAccess]
  case setDuty => simp [commandProg, progPwmSetDuty, channelProg_of_channel hch, timerAccess]

/-- Settles O19: each command is one read-modify-write of EPR. -/
theorem pwmStartAndStopSwitchTheChannelEnable : Obligations.PwmStartAndStopSwitchTheChannelEnable := by
  refine ⟨fun i ch => ⟨decode_eq_ok_iff.mpr ⟨formatT_eq_or .pwmStart i ch, rfl⟩,
    decode_eq_ok_iff.mpr ⟨formatT_eq_or .pwmStop i ch, rfl⟩⟩, fun i ch s hfault => ?_⟩
  obtain ⟨hstartChecks, hstart⟩ := rules_of_channelReadModifyWrite (cmd := .pwmStart i ch) (i := i)
    (fun c x => x ||| (1#16 <<< c.groupShift)) hfault rfl fun _ => rfl
  obtain ⟨hstopChecks, hstop⟩ := rules_of_channelReadModifyWrite (cmd := .pwmStop i ch) (i := i)
    (fun c x => x &&& ~~~(1#16 <<< c.groupShift)) hfault rfl fun _ => rfl
  refine ⟨hstartChecks, hstopChecks, fun c hch => ?_⟩
  obtain ⟨hstartUnclocked, hstartExec⟩ := hstart c hch
  obtain ⟨hstopUnclocked, hstopExec⟩ := hstop c hch
  refine ⟨hstartUnclocked, hstopUnclocked, fun hready hnamed => ?_⟩
  rw [← Channel.groupShift_of_ofRaw hch]
  exact ⟨hstartExec hready (hnamed.storedValue_channelEnable i c),
    hstopExec hready (hnamed.storedValue_and (by decide) _)⟩

end Sys2Proof.Proofs

/-!
PROOF. The obligations of 44_ic.md: the frame of the input-capture commands (R180-R183), and the value IC_READ returns (R183).
-/
namespace Sys2Proof.Machine

open Sys2Proof

variable {s t : State} {i : Inst} {ch : BitVec 3} {c : Channel}

/-! ## Commands that write `result` alone (R52) -/

/-- A read, or a write of `result`. -/
def Access.readsOnly : Access → Prop
  | .rd _ _ | .rdC _ | .rdIPR _ | .rdResult _ _ | .setResult _ => True
  | .wr _ _ _ | .wrC _ _ | .wrISER _ _ | .wrICER _ _ | .wrIPR _ _ => False
  | .setField _ _ _ | .callback _ _ => False

theorem perform_readsOnly {a : Access} {v : Word} (ha : a.readsOnly) (h : perform a s = .ok (t, v)) :
    ∃ x, t = { s with result := x } := by
  cases a <;> simp only [Access.readsOnly] at ha <;> simp only [perform] at h
  case rd j r =>
    split at h
    · exact ⟨s.result, by simp_all⟩
    · cases h
  case rdResult j r =>
    split at h
    · rename_i x _
      exact ⟨x.setWidth 32, by simp_all⟩
    · cases h
  case rdC b => exact ⟨s.result, by simp_all⟩
  case rdIPR n => exact ⟨s.result, by simp_all⟩
  case setResult x => exact ⟨x, by simp_all⟩

/-- Such a command leaves the timers, and everything else but `result`, the command index and the fault state. -/
theorem exec_result_frame {cmd : Instr} (hd : isDispatch cmd = false)
    (hal : ∀ snap, (commandProg cmd s.cfg snap).Only Access.readsOnly) (h : exec cmd s = .next t) :
    t.timers = s.timers ∧ s.sameOutsideTimers { t with result := s.result } := by
  refine exec_only hd hal (P := fun u => u.timers = s.timers ∧ s.sameOutsideTimers { u with result := s.result })
    (fun _ _ _ _ ha hu hperf => ?_) (fun u hu => ?_) (fun _ _ _ hu => hu) ?_ h
  · obtain ⟨x, rfl⟩ := perform_readsOnly ha hperf
    exact hu
  · simpa [State.sameOutsideTimers] using hu
  · simp [State.sameOutsideTimers]

/-! ## IC_READ (R183) -/

/-- IC_READ raises what its read answers; `exec_icRead_of_rd` is the other case. -/
theorem exec_icRead_of_rd_error {cause : FaultCause} (hfault : s.fault = none) (hi : s.cfg.hasInst i = true)
    (hch : Channel.ofRaw ch = some c) (hread : s.rd i c.ccr = .error cause) :
    exec (.icRead i ch) s = .next (s.raise cause (encode (.icRead i ch))) := by
  refine exec_of_run_fault (snap := {}) hfault (startChannel_of_channel hi hch) ?_
  rw [commandProg, progIcRead, channelProg_of_channel hch]
  simp only [Prog.perform, runProg, perform, hread]

end Sys2Proof.Machine

namespace Sys2Proof.Proofs

open Sys2Proof Sys2Proof.Machine

/-- Settles O26, by the registers each command writes; IC_READ writes none. -/
theorem captureCommandsLeaveEverythingElse : Obligations.CaptureCommandsLeaveEverythingElse := by
  intro i ch s t c hch
  refine ⟨exec_timer_frame rfl fun _ => ?init, exec_timer_frame rfl fun _ => ?startIt,
    exec_timer_frame rfl fun _ => ?stopIt, fun h => ?read⟩
  case init => simp [commandProg, progIcInit, channelProg_of_channel hch, timerAccess]
  case startIt => simp [commandProg, progIcStartIt, channelProg_of_channel hch, timerAccess]
  case stopIt => simp [commandProg, progIcStopIt, channelProg_of_channel hch, timerAccess]
  case read =>
    obtain ⟨htimers, houtside⟩ :=
      exec_result_frame rfl (fun _ => Prog.only_channelProg fun _ => by simp [Access.readsOnly]) h
    exact ⟨fun j r _ => State.reg_congr htimers j r, houtside⟩

/-- Settles O25: after the checks IC_READ is one read, whose answer is the register, the fault of R73, or 0. -/
theorem icReadReturnsTheCaptureRegister : Obligations.IcReadReturnsTheCaptureRegister := by
  refine ⟨fun i ch => decode_eq_ok_iff.mpr ⟨formatT_eq_or .icRead i ch, rfl⟩, fun i ch s hfault => ?_⟩
  obtain ⟨hinst, hchannel⟩ :=
    channelRules_of_startChannel (cmd := .icRead i ch) (i := i) (ch := ch) hfault rfl (fun _ => rfl)
  refine ⟨hinst, hchannel, fun c hch => ⟨?fault, ?ignore, ?ready⟩⟩
  case fault =>
    exact fun hi hclk hpolicy =>
      exec_icRead_of_rd_error hfault hi hch (State.rd_of_unclocked hclk hpolicy c.ccr)
  case ignore =>
    exact fun hi hclk hpolicy => exec_icRead_of_rd hfault hi hch (State.rd_of_ignored hclk hpolicy c.ccr)
  case ready =>
    exact fun ⟨_, hi, hclk⟩ => exec_icRead_of_rd hfault hi hch (State.rd_of_clocked hclk c.ccr)

end Sys2Proof.Proofs

/-!
PROOF. The obligations of 45_nvic.md: the enable bit NVIC_SET_EN switches (R202, R203), the one line whose priority
NVIC_SET_PRIO changes (R206, R207), and the frame of the two commands.
-/
namespace Sys2Proof.Machine

open Sys2Proof

variable {s t : State}

theorem fault_eq_none_of_exec {cmd : Instr} (h : exec cmd s = .next t) : s.fault = none := by
  rw [exec_eq_wholeCommand] at h
  obtain ⟨hfault, -⟩ := wholeCommand_cases h
  exact hfault

@[simp] theorem State.enableWord_advance (b : Nat) : s.advance.enableWord b = s.enableWord b := by
  simp [State.enableWord]

@[simp] theorem State.prioWord_advance (n : Nat) : s.advance.prioWord n = s.prioWord n := by
  simp [State.prioWord]

/-! ## The enable words (R76) -/

theorem State.enableWord_wrISER_self {b : Nat} (h : b < s.enable.length) (v : Word) :
    (s.wrISER b v).enableWord b = s.enableWord b ||| v := by
  simp [State.enableWord, State.wrISER, h]

theorem State.enableWord_wrISER_ne {b c : Nat} (h : c ≠ b) (v : Word) :
    (s.wrISER b v).enableWord c = s.enableWord c := by
  simp [State.enableWord, State.wrISER, List.getElem?_set_ne h.symm]

theorem State.enableWord_wrICER_ne {b c : Nat} (h : c ≠ b) (v : Word) :
    (s.wrICER b v).enableWord c = s.enableWord c := by
  simp [State.enableWord, State.wrICER, List.getElem?_set_ne h.symm]

theorem State.enable_wrISER_of_le {b : Nat} (h : s.enable.length ≤ b) (v : Word) :
    (s.wrISER b v).enable = s.enable :=
  List.set_eq_of_length_le h

/-- Bits that are set are set again without effect. -/
theorem State.enable_wrISER_wrISER (b : Nat) (v : Word) :
    ((s.wrISER b v).wrISER b v).enable = (s.wrISER b v).enable := by
  obtain hb | hb := Nat.lt_or_ge b s.enable.length
  · have hword : (s.wrISER b v).enableWord b ||| v = s.enableWord b ||| v := by
      rw [State.enableWord_wrISER_self hb, BitVec.or_assoc, BitVec.or_self]
    calc ((s.wrISER b v).wrISER b v).enable
        = (s.wrISER b v).enable.set b ((s.wrISER b v).enableWord b ||| v) := rfl
      _ = (s.enable.set b (s.enableWord b ||| v)).set b (s.enableWord b ||| v) := by rw [hword]; rfl
      _ = (s.wrISER b v).enable := List.set_set ..
  · have hlen : (s.wrISER b v).enable.length ≤ b := by rwa [State.enable_wrISER_of_le hb]
    exact State.enable_wrISER_of_le hlen v

/-! ## NVIC_SET_EN (R202, R203) -/

/-- What NVIC_SET_EN does to line `l`: one write to the enable or the disable word of its bank, and nothing above bank 2. -/
def State.switchLine (s : State) (en : BitVec 1) (l : Nat) : State :=
  if lineBank l ≤ 2 then
    if en = 1 then s.wrISER (lineBank l) (lineMask l) else s.wrICER (lineBank l) (lineMask l)
  else s

section SwitchLine

variable {en : BitVec 1} {l : Nat}

theorem State.switchLine_enabling (h : lineBank l ≤ 2) :
    s.switchLine 1 l = s.wrISER (lineBank l) (lineMask l) := by
  simp [State.switchLine, h]

theorem State.switchLine_disabling (h : lineBank l ≤ 2) :
    s.switchLine 0 l = s.wrICER (lineBank l) (lineMask l) := by
  simp [State.switchLine, h]

theorem State.switchLine_of_high (h : 2 < lineBank l) : s.switchLine en l = s := by
  simp [State.switchLine, h]

theorem State.switchLine_frame :
    (s.switchLine en l).timers = s.timers ∧ s.sameOutsideTimers { s.switchLine en l with enable := s.enable }
      ∧ ∀ b, b ≠ lineBank l → (s.switchLine en l).enableWord b = s.enableWord b := by
  unfold State.switchLine
  split
  · split
    · exact ⟨rfl, by simp [State.sameOutsideTimers], fun _ hb => State.enableWord_wrISER_ne hb _⟩
    · exact ⟨rfl, by simp [State.sameOutsideTimers], fun _ hb => State.enableWord_wrICER_ne hb _⟩
  · exact ⟨rfl, by simp [State.sameOutsideTimers], fun _ _ => rfl⟩

theorem State.enable_switchLine_congr (h : t.enable = s.enable) :
    (t.switchLine en l).enable = (s.switchLine en l).enable := by
  simp only [State.switchLine, apply_ite State.enable, State.wrISER, State.wrICER, State.enableWord, h]

/-- Enabling an enabled line has no effect (R203). -/
theorem State.enable_switchLine_switchLine :
    ((s.switchLine 1 l).switchLine 1 l).enable = (s.switchLine 1 l).enable := by
  obtain hl | hl := Nat.lt_or_ge 2 (lineBank l)
  · simp only [State.switchLine_of_high hl]
  · simp only [State.switchLine_enabling hl, State.enable_wrISER_wrISER]

end SwitchLine

theorem runProg_progNvicSetEn {cb : CallbackRunner} {w : Word} (en : BitVec 1) (line : BitVec 16) :
    runProg cb w (progNvicSetEn en line) s = .ok (s.switchLine en line.toNat) := by
  unfold progNvicSetEn State.switchLine
  dsimp only
  split
  · split <;> rfl
  · rfl

theorem exec_nvicSetEn (hfault : s.fault = none) (en : BitVec 1) (line : BitVec 16) :
    exec (.nvicSetEn en line) s = .next (s.switchLine en line.toNat).advance :=
  exec_of_run_ok (snap := {}) hfault rfl (runProg_progNvicSetEn en line)

/-! ## NVIC_SET_PRIO (R204-R207) -/

/-- The state after the write that ORs `level` into the byte of line `l` (R204). -/
def State.orPriority (s : State) (level : BitVec 8) (l : Nat) : State :=
  s.wrIPR (lineSlot l) (s.prioWord (lineSlot l) ||| prioPattern level l)

theorem State.orPriority_frame {level : BitVec 8} {l : Nat} :
    (s.orPriority level l).timers = s.timers ∧ s.sameOutsideTimers { s.orPriority level l with prio := s.prio }
      ∧ ∀ n, n ≠ lineSlot l → (s.orPriority level l).prioWord n = s.prioWord n :=
  ⟨rfl, by simp [State.sameOutsideTimers, State.orPriority], fun _ hn => State.prioWord_wrIPR_ne hn _⟩

theorem exec_nvicSetPrio_of_lt {line : BitVec 16} (hfault : s.fault = none)
    (hslot : lineSlot line.toNat < s.cfg.numPrioSlots) (level : BitVec 8) :
    exec (.nvicSetPrio level line) s = .next (s.orPriority level line.toNat).advance :=
  exec_of_run_ok hfault (startNvicSetPrio_of_lt hslot level) (runProg_progNvicSetPrio level line)

/-- NVIC_SET_PRIO makes its one write or faults at its check. -/
theorem exec_nvicSetPrio_cases {level : BitVec 8} {line : BitVec 16} (h : exec (.nvicSetPrio level line) s = .next t) :
    t = (s.orPriority level line.toNat).advance ∨ ∃ c w, t = s.raise c w := by
  have hfault := fault_eq_none_of_exec h
  obtain hslot | hslot := Nat.lt_or_ge (lineSlot line.toNat) s.cfg.numPrioSlots
  · rw [exec_nvicSetPrio_of_lt hfault hslot, Host.Outcome.next.injEq] at h
    exact .inl h.symm
  · have hstart : commandStart (.nvicSetPrio level line) s = .error (.priorityOutOfRange line) :=
      startNvicSetPrio_of_le hslot level
    rw [exec_of_start_error hfault hstart, Host.Outcome.next.injEq] at h
    exact .inr ⟨_, _, h.symm⟩

/-! ## The priority of a line in its word (R201, R207) -/

section LinePriority

variable {l m : Nat}

/-- The implemented bits of a priority word hold the priority of each of its four lines (R77). -/
theorem getLsbD_implemented : ∀ k < 4, ∀ i < 4, (0xF0F0F0F0#32).getLsbD (8 * k + 4 + i) = true := by decide

theorem extract_implemented (v : Word) (l : Nat) :
    (v &&& 0xF0F0F0F0#32).extractLsb' (lineShift l) 4 = v.extractLsb' (lineShift l) 4 := by
  ext i hi
  have hbit := getLsbD_implemented (l % 4) (Nat.mod_lt l (by decide)) i hi
  simp [lineShift, hbit]

theorem getLsbD_prioPattern (level : BitVec 8) (l : Nat) {n : Nat} (hn : n < 32) :
    (prioPattern level l).getLsbD n = if lineShift l ≤ n then level.getLsbD (n - lineShift l) else false := by
  rw [prioPattern, BitVec.getLsbD_shiftLeft, BitVec.getLsbD_setWidth]
  split <;> grind

theorem lineShift_add_lt (l : Nat) {i : Nat} (hi : i < 4) : lineShift l + i < 32 := by
  simp only [lineShift]
  omega

/-- Of the level's pattern a line's own priority field holds the low four bits, whatever the level (R207). -/
theorem extract_prioPattern_self (level : BitVec 8) (l : Nat) :
    (prioPattern level l).extractLsb' (lineShift l) 4 = level.setWidth 4 := by
  ext i hi
  simp [← BitVec.getLsbD_eq_getElem, hi, getLsbD_prioPattern level l (lineShift_add_lt l hi)]

/-- The pattern's upper four bits lie below the next line's field, so no other line's field holds a bit of it. -/
theorem extract_prioPattern_ne (level : BitVec 8) (h : m % 4 ≠ l % 4) :
    (prioPattern level l).extractLsb' (lineShift m) 4 = 0#4 := by
  ext i hi
  have hbit : (prioPattern level l).getLsbD (lineShift m + i) = false := by
    rw [getLsbD_prioPattern level l (lineShift_add_lt m hi)]
    obtain hlow | hhigh := Nat.lt_or_gt_of_ne h
    · refine if_neg ?_
      simp only [lineShift]
      omega
    · rw [BitVec.getLsbD_of_ge level _ (by simp only [lineShift]; omega), ite_self]
  simp [hbit]

theorem State.linePriority_congr (hcfg : t.cfg = s.cfg) (hdraws : t.draws = s.draws)
    (hword : t.prioWord (lineSlot l) = s.prioWord (lineSlot l)) : t.linePriority l = s.linePriority l := by
  simp only [State.linePriority, hcfg, hdraws, hword]

@[simp] theorem State.linePriority_advance (l : Nat) : s.advance.linePriority l = s.linePriority l :=
  State.linePriority_congr (by simp) (by simp) (by simp)

theorem State.linePriority_of_lt (h : lineSlot l < s.cfg.numPrioSlots) :
    s.linePriority l = (s.prioWord (lineSlot l)).extractLsb' (lineShift l) 4 :=
  if_pos h

/-- The line's own word after the write, seen through the field of a line of the same word. -/
theorem State.extract_orPriority (hsize : lineSlot l < s.prio.length) (level : BitVec 8) (m : Nat) :
    ((s.orPriority level l).prioWord (lineSlot l)).extractLsb' (lineShift m) 4
      = (s.prioWord (lineSlot l)).extractLsb' (lineShift m) 4 ||| (prioPattern level l).extractLsb' (lineShift m) 4 := by
  rw [State.orPriority, State.prioWord_wrIPR_self hsize, extract_implemented, BitVec.extractLsb'_or]

theorem State.linePriority_orPriority_self (hsize : lineSlot l < s.prio.length)
    (hslot : lineSlot l < s.cfg.numPrioSlots) (level : BitVec 8) :
    (s.orPriority level l).linePriority l = s.linePriority l ||| level.setWidth 4 := by
  rw [State.linePriority_of_lt hslot, ← extract_prioPattern_self level l, ← State.extract_orPriority hsize]
  exact State.linePriority_of_lt hslot

/-- Another line has another field of the same word, or a word that is not written. -/
theorem State.linePriority_orPriority_ne (hsize : lineSlot l < s.prio.length)
    (hslot : lineSlot l < s.cfg.numPrioSlots) (h : m ≠ l) (level : BitVec 8) :
    (s.orPriority level l).linePriority m = s.linePriority m := by
  by_cases hword : lineSlot m = lineSlot l
  · have hfield : m % 4 ≠ l % 4 := by
      simp only [lineSlot] at hword
      omega
    rw [← hword] at hslot
    calc (s.orPriority level l).linePriority m
        = ((s.orPriority level l).prioWord (lineSlot m)).extractLsb' (lineShift m) 4 := State.linePriority_of_lt hslot
      _ = (s.prioWord (lineSlot m)).extractLsb' (lineShift m) 4 := by
          rw [hword, State.extract_orPriority hsize, extract_prioPattern_ne level hfield, BitVec.or_zero]
      _ = s.linePriority m := (State.linePriority_of_lt hslot).symm
  · exact State.linePriority_congr rfl rfl (State.prioWord_wrIPR_ne hword _)

end LinePriority

end Sys2Proof.Machine

namespace Sys2Proof.Proofs

open Sys2Proof Sys2Proof.Machine

/-- Settles O27: the command is `switchLine`, whose second enabling finds the bit set. -/
theorem nvicSetEnSwitchesOneEnableBit : Obligations.NvicSetEnSwitchesOneEnableBit := by
  intro line s hfault
  refine ⟨fun hlow => ⟨?enable, ?disable⟩, fun hhigh en => ?ignored, fun t u ht hu => ?twice⟩
  case enable => exact (exec_nvicSetEn hfault 1 line).trans (by rw [State.switchLine_enabling hlow]; rfl)
  case disable => exact (exec_nvicSetEn hfault 0 line).trans (by rw [State.switchLine_disabling hlow]; rfl)
  case ignored => rw [exec_nvicSetEn hfault, State.switchLine_of_high hhigh]
  case twice =>
    rw [exec_nvicSetEn hfault, Host.Outcome.next.injEq] at ht
    rw [exec_nvicSetEn (fault_eq_none_of_exec hu), Host.Outcome.next.injEq] at hu
    subst ht hu
    simp only [State.advance_enable]
    rw [State.enable_switchLine_congr (State.advance_enable _), State.enable_switchLine_switchLine]

/-- Settles O29: the fields of two lines share no bit, and the level reaches one field only. -/
theorem priorityWritesAreAdditiveAndReachOneLine : Obligations.PriorityWritesAreAdditiveAndReachOneLine := by
  intro level line s t hsizes hslot hfault h
  obtain ⟨-, hprio, -⟩ := hsizes
  have hsize : lineSlot line.toNat < s.prio.length := hprio ▸ hslot
  rw [exec_nvicSetPrio_of_lt hfault hslot, Host.Outcome.next.injEq] at h
  subst h
  simp only [State.linePriority_advance]
  have hother (l : Nat) (hl : l ≠ line.toNat) := State.linePriority_orPriority_ne hsize hslot hl level
  refine ⟨State.linePriority_orPriority_self hsize hslot level, fun l hl _ => hother l hl, fun l hout => hother l ?_⟩
  rintro rfl
  omega

/-- Settles O30: the one write of each command changes one word of one table; a fault at the check changes none. -/
theorem nvicCommandsLeaveEverythingElse : Obligations.NvicCommandsLeaveEverythingElse := by
  intro en level line s t
  refine ⟨fun h => ?setEn, fun h => ?setPrio⟩
  case setEn =>
    rw [exec_nvicSetEn (fault_eq_none_of_exec h), Host.Outcome.next.injEq] at h
    subst h
    obtain ⟨htimers, houtside, hwords⟩ := State.switchLine_frame (s := s) (en := en) (l := line.toNat)
    exact ⟨by simpa using htimers, by simpa [State.sameOutsideTimers] using houtside,
      fun b hb => (State.enableWord_advance b).trans (hwords b hb)⟩
  case setPrio =>
    obtain rfl | ⟨c, w, rfl⟩ := exec_nvicSetPrio_cases h
    · obtain ⟨htimers, houtside, hwords⟩ := State.orPriority_frame (s := s) (level := level) (l := line.toNat)
      exact ⟨by simpa using htimers, by simpa [State.sameOutsideTimers] using houtside,
        fun n hn => (State.prioWord_advance n).trans (hwords n hn)⟩
    · exact ⟨rfl, by simp [State.sameOutsideTimers], fun _ _ => rfl⟩

end Sys2Proof.Proofs

/-!
PROOF. The dispatcher without a clock (R73), and with empty callback programs (46_dispatch.md R220, R223).
-/
namespace Sys2Proof.Machine

open Sys2Proof

variable {s : State} {i : Inst}

/-- Ignored reads give 0, so the dispatcher sees no flag. -/
theorem runProg_progIrqDispatch_of_ignored {cb : CallbackRunner} {w : Word} (hclk : s.clocked i = false)
    (hpolicy : s.cfg.unclockedPolicy = .ignore) : runProg cb w (progIrqDispatch i) s = .ok s := by
  simp only [progIrqDispatch, Prog.rd, runProg, perform, State.rd_of_ignored hclk hpolicy]
  rfl

/-- The update step of a dispatcher whose callback runs no program (R220, step 3). -/
def State.serveUpdate (s : State) (i : Inst) : State :=
  if (s.reg i .sr).getLsbD 0 = true then s.updateServed i else s

/-- The capture step of a dispatcher whose callback runs no program (R220, step 4). -/
def State.serveCapture (s : State) (i : Inst) (seen : Half) : State :=
  if seen.extractLsb' 1 4 ≠ 0#4 then s.recordCallback .captureEvent i else s

/-- With empty callback programs the dispatcher is its two steps, the second of which tests the flags read before the first. -/
theorem exec_irqDispatch_of_no_programs (hready : s.ready i) (hnamed : s.namedBitsOnly)
    (hprog : ∀ kind, s.cfg.callbackProgram kind i = []) :
    exec (.irqDispatch i) s = .next ((s.serveUpdate i).serveCapture i (s.reg i .sr)).advance := by
  obtain ⟨hrest, hcfg⟩ := runProg_progIrqDispatch_of_ok (t := s.serveUpdate i) (w := encode (.irqDispatch i)) hready
    hnamed (by rw [State.serveUpdate, hprog]; split <;> rfl)
  refine exec_irqDispatch_of_ok hready (hrest.trans (runProg_captureStep_of_ok ?_))
  rw [State.serveCapture, hcfg, hprog]
  split <;> rfl

theorem State.serveUpdate_eq :
    s.serveUpdate i
      = { s.setReg i .sr (if (s.reg i .sr).getLsbD 0 then s.reg i .sr &&& 0xFFFE#16 else s.reg i .sr) with
          trace := s.trace ++ if (s.reg i .sr).getLsbD 0 then [TraceRecord.callback .periodElapsed i] else [] } := by
  unfold State.serveUpdate
  split
  · rfl
  · simp

theorem State.serveCapture_eq (seen : Half) :
    s.serveCapture i seen
      = { s with
          trace := s.trace ++ if seen.extractLsb' 1 4 ≠ 0#4 then [TraceRecord.callback .captureEvent i] else [] } := by
  unfold State.serveCapture
  split
  · rfl
  · simp

end Sys2Proof.Machine

namespace Sys2Proof.Proofs

open Sys2Proof Sys2Proof.Machine

/-- Settles O31: the check of R120, the first read, and then the update step and the capture step. -/
theorem irqDispatchClearsUifAndRecordsEachCallbackOnce :
    Obligations.IrqDispatchClearsUifAndRecordsEachCallbackOnce := by
  intro i s hfault
  have hstart (hi : s.cfg.hasInst i = true) : commandStart (.irqDispatch i) s = .ok {} := startInst_of_hasInst hi _
  refine ⟨fun hi => ?badInstance, ?unclocked, fun hi hclk hpolicy => ?ignored, fun hready hnamed hprog => ?ready⟩
  case badInstance => exact exec_of_start_error hfault (startInst_of_no_inst hi _)
  case unclocked => exact faultsOnUnclocked_of_rd hfault hstart (by rw [commandProg, progIrqDispatch])
  case ignored => exact exec_of_run_ok hfault (hstart hi) (runProg_progIrqDispatch_of_ignored hclk hpolicy)
  case ready => rw [exec_irqDispatch_of_no_programs hready hnamed hprog, State.serveCapture_eq, State.serveUpdate_eq]

end Sys2Proof.Proofs

/-!
PROOF. What the machine does when no turn is named (60_exceptions.md R324), in the environment that never names one (R312, R356)
and in the one that takes a pending step again and again (46_dispatch.md R224, R362).
-/
namespace Sys2Proof

theorem Params.mem_insts_iff (p : Params) (i : Inst) : i ∈ p.insts ↔ p.hasInst i = true := by
  have hall : ∀ k : Inst, k ∈ ([0, 1, 2, 3, 4, 5, 6, 7] : List Inst) := by decide
  rw [Params.insts, List.mem_filter]
  exact and_iff_right (hall i)

end Sys2Proof

namespace Sys2Proof.Machine

open Sys2Proof

variable {s t v w : State} {i j : Inst} {env : Environment}

/-- The lines of two timers of a legal launch are different (R7, P5). -/
theorem lineOf_ne_of_paramsLegal {p : Params} (h : paramsLegal p = true) (hi : p.hasInst i = true)
    (hj : p.hasInst j = true) (hne : j ≠ i) : p.lineOf j ≠ p.lineOf i := by
  have hdistinct : linesDistinct p = true := by simp_all [paramsLegal]
  have hnodup : (p.insts.map p.lineOf).Nodup := by simpa [linesDistinct] using hdistinct
  exact fun e => hne (List.inj_on_of_nodup_map hnodup ((p.mem_insts_iff j).mpr hj) ((p.mem_insts_iff i).mpr hi) e)

/-! ## A line is entered exactly when one can be (R313, R317, R319) -/

/-- Once there is a candidate, there is one to the end; and a timer whose line is eligible is one. -/
theorem State.isSome_foldl_better (is : List Inst) :
    ∀ best : Option Inst, (best.isSome = true ∨ ∃ j ∈ is, s.eligible j = true) →
      (is.foldl s.better best).isSome = true := by
  induction is with
  | nil => simp
  | cons i is ih =>
    intro best h
    refine ih _ ?_
    by_cases hi : s.eligible i = true
    · left
      cases best with
      | none => simp [State.better, hi]
      | some k =>
        simp only [State.better, hi, if_true]
        split <;> rfl
    · obtain hbest | ⟨j, hj, helig⟩ := h
      · exact .inl (by simpa [State.better, hi] using hbest)
      · obtain rfl | hj := List.mem_cons.mp hj
        · exact absurd helig hi
        · exact .inr ⟨j, hj, helig⟩

theorem State.exists_nextEntry (h : s.eligible j = true) (hdepth : s.active.length < maxDepth) :
    ∃ i, s.nextEntry = some i := by
  rw [State.nextEntry, if_pos hdepth]
  have hmem := (Params.mem_insts_iff _ _).mpr (State.hasInst_of_eligible h)
  exact Option.isSome_iff_exists.mp (State.isSome_foldl_better _ none (.inr ⟨j, hmem, h⟩))

theorem State.nextEntry_eq_none (h : ∀ j, ¬ s.eligible j = true) : s.nextEntry = none := by
  cases hn : s.nextEntry with
  | none => rfl
  | some i =>
    obtain ⟨-, helig⟩ := State.eligible_of_nextEntry hn
    exact absurd helig (h i)

theorem State.fault_of_eligible (h : s.eligible j = true) : s.fault = none := by
  simp_all [State.eligible]

theorem State.mayPreempt_of_eligible (h : s.eligible j = true) : s.mayPreempt (s.cfg.lineOf j) = true := by
  simp_all [State.eligible]

/-- A line does not preempt its own frame (R316). -/
theorem State.mayPreempt_own_frame {f : Frame} {fs : List Frame} (hact : s.active = f :: fs) :
    s.mayPreempt f.line = false := by
  simp [State.mayPreempt, hact]

/-! ## The step when no turn is named (log entry 2) -/

theorem machineStep_enters (hlegal : paramsLegal s.cfg = true) (hs : s.schedule = []) (hn : s.nextEntry = some i) :
    machineStep env s = .next (s.enterInterrupt i) := by
  obtain ⟨-, helig⟩ := State.eligible_of_nextEntry hn
  rw [machineStep_of_no_turn (State.fault_of_eligible helig) hlegal hs, defaultTurn, hn]

theorem machineStep_goes_on (hfault : s.fault = none) (hlegal : paramsLegal s.cfg = true) (hs : s.schedule = [])
    (hn : s.nextEntry = none) (hw : s.commandWaits = false) :
    machineStep env s = contextStep (s.loadTurns env) := by
  rw [machineStep_of_no_turn hfault hlegal hs, defaultTurn, hn]
  simp [hw]

theorem runSteps_succ (h : machineStep env s = .next t) (n : Nat) : runSteps env (n + 1) s = runSteps env n t := by
  simp [runSteps, h]

theorem runSteps_add {n : Nat} (h : runSteps env n s = .next t) (m : Nat) :
    runSteps env (n + m) s = runSteps env m t := by
  induction n generalizing s with
  | zero =>
    cases h
    rw [Nat.zero_add]
  | succ n ih =>
    rw [Nat.succ_add]
    simp only [runSteps] at h ⊢
    split at h
    · exact ih h
    · cases h
    · cases h

/-! ## Without a pending step no line becomes pending (R312, R324) -/

theorem contextStep_keeps_latches (h : contextStep s = .next t) :
    t.schedule = s.schedule ∧ t.pending = s.pending := by
  obtain rfl | ⟨c, w, rfl⟩ | ⟨f, fs, -, rfl⟩ | rfl | ⟨u, rfl | ⟨a, v, hperf⟩, c, rfl⟩ := contextStep_cases h
  · simp
  · simp
  · simp
  · simp [State.completeCommand]
  · simp
  · obtain ⟨-, -, hsched, hpend, -⟩ := perform_keeps hperf
    simp [hsched, hpend]

theorem exec_keeps_latches {cmd : Instr} (h : exec cmd s = .next t) :
    t.schedule = s.schedule ∧ t.pending = s.pending := by
  refine exec_preserves (fun u => u.schedule = s.schedule ∧ u.pending = s.pending) ?_ ?_ ?_ ⟨rfl, rfl⟩ h
  · intro a u u' v hu hperf
    obtain ⟨-, -, hsched, hpend, -⟩ := perform_keeps hperf
    rwa [hsched, hpend]
  · exact fun u hu => by simpa using hu
  · exact fun _ _ _ hu => hu

theorem commandTurn_keeps_latches (h : commandTurn s = .next t) :
    t.schedule = s.schedule ∧ t.pending = s.pending := by
  obtain hctx | rfl | ⟨c, w, rfl⟩ | ⟨cmd, -, hexec⟩ := commandTurn_cases h
  · exact contextStep_keeps_latches hctx
  · exact ⟨rfl, rfl⟩
  · exact ⟨rfl, rfl⟩
  · exact exec_keeps_latches hexec

theorem State.isPending_congr (h : t.pending = s.pending) (l : Nat) : t.isPending l = s.isPending l := by
  rw [State.isPending, State.isPending, h]

theorem State.isPending_of_setPending_false {k l : Nat} (h : (s.setPending k false).isPending l = true) :
    s.isPending l = true := by
  by_cases hl : l = k
  · subst hl
    by_cases hlen : l < s.pending.length
    · rw [State.isPending_setPending_self hlen] at h
      cases h
    · rwa [State.setPending_of_le (by omega)] at h
  · rwa [State.isPending_setPending_ne hl] at h

/-- One step of the environment that names no turn: none is named after it, and no line pends that did not. -/
theorem machineStep_without_turns (hs : s.schedule = []) (h : machineStep (fun _ => []) s = .next t) :
    t.schedule = [] ∧ ∀ l, t.isPending l = true → s.isPending l = true := by
  obtain ⟨hfault, hlegal, -⟩ := machineStep_cases h
  rw [machineStep_of_no_turn hfault hlegal hs] at h
  unfold defaultTurn at h
  split at h
  · cases h
    exact ⟨hs, fun l => State.isPending_of_setPending_false⟩
  · split at h
    · obtain ⟨hsched, hpend⟩ := commandTurn_keeps_latches h
      exact ⟨hsched.trans hs, fun l hl => State.isPending_congr hpend l ▸ hl⟩
    · obtain ⟨hsched, hpend⟩ := contextStep_keeps_latches h
      exact ⟨hsched, fun l hl => State.isPending_congr (s := s) hpend l ▸ hl⟩

theorem runSteps_without_turns {n : Nat} (hs : s.schedule = []) (h : runSteps (fun _ => []) n s = .next t) (l : Nat)
    (hl : t.isPending l = true) : s.isPending l = true := by
  induction n generalizing s with
  | zero =>
    cases h
    exact hl
  | succ n ih =>
    simp only [runSteps] at h
    split at h
    · rename_i u hu
      obtain ⟨hsched, hpend⟩ := machineStep_without_turns hs hu
      exact hpend l (ih hsched h)
    · cases h
    · cases h

/-! ## The ended base level (R356) -/

theorem contextStep_of_ended (hb : s.betweenCommands = true) (hf : fetch s = none) : contextStep s = .next s := by
  simp [contextStep, State.current_of_betweenCommands hb, Context.idle, State.active_of_betweenCommands hb, hf]

theorem runSteps_of_ended (hfault : s.fault = none) (hlegal : paramsLegal s.cfg = true) (hs : s.schedule = [])
    (hb : s.betweenCommands = true) (hf : fetch s = none)
    (hnone : ∀ j, s.cfg.hasInst j = true → s.isPending (s.cfg.lineOf j) = false) (n : Nat) :
    runSteps (fun _ => []) n s = .next { s with draws := s.draws + n } := by
  induction n generalizing s with
  | zero => rfl
  | succ n ih =>
    have hn : s.nextEntry = none := State.nextEntry_eq_none fun j hj => by
      simpa [State.isPending_of_eligible hj] using hnone j (State.hasInst_of_eligible hj)
    have hload : s.loadTurns (fun _ => []) = { s with draws := s.draws + 1 } := by
      rw [State.loadTurns, ← hs]
    have hstep : machineStep (fun _ => []) s = .next { s with draws := s.draws + 1 } := by
      rw [machineStep_goes_on hfault hlegal hs hn (by simp [State.commandWaits, hf]), hload]
      exact contextStep_of_ended hb hf
    rw [runSteps_succ hstep, Nat.add_comm n 1, ← Nat.add_assoc]
    exact ih (s := { s with draws := s.draws + 1 }) hfault hlegal hs hb hf hnone

/-! ## The steps of a dispatcher that serves a capture flag (R220) -/

/-- The dispatcher of timer `i` after its read of SR has given `seen`. -/
def dispatcherAfterRead (i : Inst) (seen : Half) : InFlight :=
  InFlight.after ⟨.irqDispatch i, {}, 0, []⟩ (.rd i .sr) (seen.setWidth 32)

/-- The dispatcher after the record of its capture callback. -/
def dispatcherAfterCapture (i : Inst) (seen : Half) : InFlight :=
  (dispatcherAfterRead i seen).after (.callback .captureEvent i) 0

/-- With a capture flag and no update flag seen, the capture callback is all that is left. -/
theorem standsAt_dispatcherAfterRead {seen : Half} (p : Params) (hupdate : updateSeen seen = false)
    (hcapture : captureSeen seen = true) :
    (dispatcherAfterRead i seen).StandsAt p (.perform (.callback .captureEvent i) .done) := by
  have h := (InFlight.standsAt_start (.irqDispatch i) {} p).after (a := .rd i .sr) (seen.setWidth 32)
  simpa [dispatcherAfterRead, Access.reads, hupdate, captureStep, hcapture] using h

theorem standsAt_dispatcherAfterCapture {seen : Half} (p : Params) (hupdate : updateSeen seen = false)
    (hcapture : captureSeen seen = true) : (dispatcherAfterCapture i seen).StandsAt p .done :=
  (standsAt_dispatcherAfterRead p hupdate hcapture).after 0

theorem contextStep_dispatcher_reads (hcur : s.current = dispatchContext i) (hclk : s.clocked i = true) :
    contextStep s = .next (s.setCurrent ⟨some (dispatcherAfterRead i (s.reg i .sr)), none⟩) := by
  refine contextStep_of_perform hcur (InFlight.standsAt_start (.irqDispatch i) {} s.cfg).rest_eq (by simp) ?_
  rw [perform, State.rd_of_clocked hclk]

section CaptureSeen

variable {seen : Half} (hupdate : updateSeen seen = false) (hcapture : captureSeen seen = true)
include hupdate hcapture

theorem contextStep_dispatcher_records (hcur : s.current = ⟨some (dispatcherAfterRead i seen), none⟩)
    (hprog : s.cfg.callbackProgram .captureEvent i = []) :
    contextStep s
      = .next ((s.recordCallback .captureEvent i).setCurrent ⟨some (dispatcherAfterCapture i seen), none⟩) := by
  have hrest := (standsAt_dispatcherAfterRead (i := i) s.cfg hupdate hcapture).rest_eq
  rw [contextStep_of_slot hcur]
  simp only [commandAccess, hrest, Prog.perform, perform, hprog]
  rfl

theorem contextStep_dispatcher_completes (hcur : s.current = ⟨some (dispatcherAfterCapture i seen), none⟩) :
    contextStep s = .next s.completeCommand := by
  have hrest := (standsAt_dispatcherAfterCapture (i := i) s.cfg hupdate hcapture).rest_eq
  rw [contextStep_of_slot hcur]
  simp only [commandAccess, hrest]

end CaptureSeen

theorem contextStep_returns {f : Frame} {fs : List Frame} (hact : s.active = f :: fs) (hf : f.ctx = Context.idle) :
    contextStep s = .next s.returnFromInterrupt := by
  simp [contextStep, State.current, hact, hf, Context.idle]

theorem captureSeen_of_flag {seen : Half} {k : Nat} (hlow : 1 ≤ k) (hhigh : k ≤ 4) (hk : seen.getLsbD k = true) :
    captureSeen seen = true := by
  rw [captureSeen, bne_iff_ne]
  intro hzero
  have hbit := congrArg (fun x : BitVec 4 => x.getLsbD (k - 1)) hzero
  simp [show k - 1 < 4 by omega, show 1 + (k - 1) = k by omega, hk] at hbit

/-! ## A request that the dispatcher does not clear (R224, R362) -/

/-- The request of timer `i` stands for a capture flag alone, its callback does nothing about it, and no other line pends. -/
structure State.Rerequests (s : State) (i : Inst) : Prop where
  fault : s.fault = none
  legal : paramsLegal s.cfg = true
  schedule : s.schedule = []
  inst : s.cfg.hasInst i = true
  clocked : s.clocked i = true
  request : s.request i = true
  updateClear : updateSeen (s.reg i .sr) = false
  captureSet : captureSeen (s.reg i .sr) = true
  callback : s.cfg.callbackProgram .captureEvent i = []
  others : ∀ j, j ≠ i → s.cfg.hasInst j = true → s.isPending (s.cfg.lineOf j) = false

/-- The environment that takes the pending step of timer `i` again and again. -/
def pendingAgain (i : Inst) : Environment := fun _ => [.pend i]

/-- What one service of the line of timer `i` records when the capture callback runs no program and no update flag stands. -/
def serviceTrace (p : Params) (i : Inst) : List TraceRecord :=
  [.enter (p.lineOf i), .callback .captureEvent i, .ret (p.lineOf i)]

/-- The state `s` with another trace and index of the free values. -/
def State.logged (s : State) (trace : List TraceRecord) (draws : Nat) : State :=
  { s with trace := trace, draws := draws }

/-- At the base level a line's eligibility does not depend on them: with no frame active, no priority is compared. -/
theorem State.eligible_logged (hact : s.active = []) (h : s.eligible i = true) (tr : List TraceRecord) (d : Nat) :
    (s.logged tr d).eligible i = true := by
  have hpreempt : (s.logged tr d).mayPreempt (s.cfg.lineOf i) = s.mayPreempt (s.cfg.lineOf i) := by
    simp [State.mayPreempt, State.logged, hact]
  rw [State.eligible, ← hpreempt] at h
  exact h

/-- The state `s` while the frame of timer `i`'s line, entered from the base level, is in the context `c`. -/
def State.serving (s : State) (i : Inst) (c : Context) (trace : List TraceRecord) (draws : Nat) : State :=
  { s with active := [⟨s.cfg.lineOf i, i, c⟩], trace := trace, draws := draws }

/-- Setting a latch that is set changes nothing. -/
theorem State.setPending_true {l : Nat} (h : s.isPending l = true) : s.setPending l true = s := by
  by_cases hl : l < s.pending.length
  · have hget : s.pending[l] = true := by simpa [State.isPending, hl] using h
    rw [State.setPending, ← hget, List.set_getElem_self]
  · exact State.setPending_of_le (by omega) true

theorem State.setPending_setPending_true {l : Nat} (h : s.isPending l = true) (b : Bool) :
    (s.setPending l b).setPending l true = s := by
  rw [State.setPending, State.setPending, List.set_set]
  exact State.setPending_true h

namespace State.Rerequests

theorem serving (h : s.Rerequests i) (c : Context) (tr : List TraceRecord) (d : Nat) :
    (s.serving i c tr d).Rerequests i :=
  ⟨h.fault, h.legal, h.schedule, h.inst, h.clocked, h.request, h.updateClear, h.captureSet, h.callback, h.others⟩

theorem logged (h : s.Rerequests i) (tr : List TraceRecord) (d : Nat) : (s.logged tr d).Rerequests i :=
  ⟨h.fault, h.legal, h.schedule, h.inst, h.clocked, h.request, h.updateClear, h.captureSet, h.callback, h.others⟩

/-- Whether the line of the timer itself pends does not matter. -/
theorem setPending (h : s.Rerequests i) (b : Bool) : (s.setPending (s.cfg.lineOf i) b).Rerequests i := by
  refine ⟨h.fault, h.legal, h.schedule, h.inst, h.clocked, h.request, h.updateClear, h.captureSet, h.callback,
    fun j hj hinst => ?_⟩
  exact (State.isPending_setPending_ne (lineOf_ne_of_paramsLegal h.legal h.inst hinst hj) b).trans (h.others j hj hinst)

/-- No other timer's line is eligible. -/
theorem eq_of_eligible (h : s.Rerequests i) (hj : s.eligible j = true) : j = i := by
  by_contra hne
  simpa [State.isPending_of_eligible hj] using h.others j hne (State.hasInst_of_eligible hj)

/-- While the frame of its own line is on top, the timer's line is not entered again (R316). -/
theorem nextEntry_serving (h : s.Rerequests i) {c : Context} {tr : List TraceRecord} {d : Nat} :
    (s.serving i c tr d).nextEntry = none := by
  refine State.nextEntry_eq_none fun j hj => ?_
  obtain rfl := (h.serving c tr d).eq_of_eligible hj
  have hown : (s.serving j c tr d).mayPreempt (s.cfg.lineOf j) = false :=
    State.mayPreempt_own_frame (s := s.serving j c tr d) (f := ⟨_, j, c⟩) rfl
  exact absurd ((State.mayPreempt_of_eligible hj).symm.trans hown) (by decide)

/-- Two steps of the machine while the frame is active: the frame's own, and the pending step that the environment then names. -/
theorem runSteps_move_and_pend (h : s.Rerequests i) {c : Context} {tr : List TraceRecord} {d : Nat} (hv : v.Rerequests i)
    (hstep : contextStep ((s.serving i c tr d).loadTurns (pendingAgain i)) = .next { v with schedule := [.pend i] })
    (hw : v.setPending (v.cfg.lineOf i) true = w) :
    runSteps (pendingAgain i) 2 (s.serving i c tr d) = .next w := by
  have hfirst : machineStep (pendingAgain i) (s.serving i c tr d) = .next { v with schedule := [.pend i] } :=
    (machineStep_goes_on (s := s.serving i c tr d) h.fault h.legal h.schedule h.nextEntry_serving rfl).trans hstep
  have hunnamed : ({ v with schedule := [] } : State) = v := by rw [← hv.schedule]
  have hsecond : machineStep (pendingAgain i) { v with schedule := [.pend i] } = .next w := by
    rw [machineStep_of_turn (s := { v with schedule := [.pend i] }) hv.fault hv.legal rfl]
    simp only [takeTurn, hunnamed, pendStep_of_request hv.inst hv.request, hw]
  rw [runSteps_succ hfirst, runSteps_succ hsecond]
  rfl

/-! ### The service of a pending line, from its entry to its return -/

section Service

variable {tr : List TraceRecord} {d : Nat} (h : s.Rerequests i) (hpend : s.isPending (s.cfg.lineOf i) = true)
include h hpend

theorem runSteps_reads :
    runSteps (pendingAgain i) 2 ((s.setPending (s.cfg.lineOf i) false).serving i (dispatchContext i) tr d)
      = .next (s.serving i ⟨some (dispatcherAfterRead i (s.reg i .sr)), none⟩ tr (d + 1)) :=
  (h.setPending false).runSteps_move_and_pend ((h.setPending false).serving _ tr (d + 1))
    (contextStep_dispatcher_reads (s := ((s.setPending _ false).serving i _ tr d).loadTurns _) rfl h.clocked)
    (congrArg (fun x : State => x.serving i ⟨some (dispatcherAfterRead i (s.reg i .sr)), none⟩ tr (d + 1))
      (State.setPending_setPending_true hpend false))

theorem runSteps_records :
    runSteps (pendingAgain i) 2 (s.serving i ⟨some (dispatcherAfterRead i (s.reg i .sr)), none⟩ tr d)
      = .next (s.serving i ⟨some (dispatcherAfterCapture i (s.reg i .sr)), none⟩ (tr ++ [.callback .captureEvent i])
          (d + 1)) :=
  h.runSteps_move_and_pend (h.serving _ _ (d + 1))
    (contextStep_dispatcher_records (s := (s.serving i _ tr d).loadTurns _) h.updateClear h.captureSet rfl h.callback)
    (State.setPending_true hpend)

theorem runSteps_completes :
    runSteps (pendingAgain i) 2 (s.serving i ⟨some (dispatcherAfterCapture i (s.reg i .sr)), none⟩ tr d)
      = .next (s.serving i Context.idle tr (d + 1)) :=
  h.runSteps_move_and_pend (h.serving _ tr (d + 1))
    (contextStep_dispatcher_completes (s := (s.serving i _ tr d).loadTurns _) h.updateClear h.captureSet rfl)
    (State.setPending_true hpend)

theorem runSteps_returns (hact : s.active = []) :
    runSteps (pendingAgain i) 2 (s.serving i Context.idle tr d)
      = .next (s.logged (tr ++ [.ret (s.cfg.lineOf i)]) (d + 1)) := by
  refine h.runSteps_move_and_pend (h.logged _ (d + 1)) ?_ (State.setPending_true hpend)
  rw [contextStep_returns (s := (s.serving i Context.idle tr d).loadTurns _) rfl rfl, State.logged, hact]
  rfl

end Service

/-- The entry takes no other line, and clears the latch (R314, R317). -/
theorem runSteps_enters (h : s.Rerequests i) (hact : s.active = []) (helig : s.eligible i = true) :
    runSteps (pendingAgain i) 1 s
      = .next ((s.setPending (s.cfg.lineOf i) false).serving i (dispatchContext i) (s.trace ++ [.enter (s.cfg.lineOf i)])
          (s.draws + 1)) := by
  obtain ⟨j, hj⟩ := State.exists_nextEntry helig (by simp [hact, maxDepth])
  obtain ⟨-, hjelig⟩ := State.eligible_of_nextEntry hj
  obtain rfl := h.eq_of_eligible hjelig
  rw [runSteps_succ (machineStep_enters h.legal h.schedule hj), State.enterInterrupt, hact]
  rfl

/-- One service of the request: the entry, the four steps of the frame, and a pending step after each of these. -/
theorem runSteps_service (h : s.Rerequests i) (hact : s.active = []) (helig : s.eligible i = true) :
    runSteps (pendingAgain i) 9 s = .next (s.logged (s.trace ++ serviceTrace s.cfg i) (s.draws + 5)) := by
  have hpend := State.isPending_of_eligible helig
  rw [runSteps_add (h.runSteps_enters hact helig) 8, runSteps_add (h.runSteps_reads hpend) 6,
    runSteps_add (h.runSteps_records hpend) 4, runSteps_add (h.runSteps_completes hpend) 2,
    h.runSteps_returns hpend hact, List.append_assoc, List.append_assoc]
  rfl

/-- The request is served without end, and the base level never goes on. -/
theorem runSteps_services (h : s.Rerequests i) (hact : s.active = []) (helig : s.eligible i = true) (n : Nat) :
    runSteps (pendingAgain i) (9 * n) s
      = .next (s.logged (s.trace ++ (List.replicate n (serviceTrace s.cfg i)).flatten) (s.draws + 5 * n)) := by
  induction n generalizing s with
  | zero => simp [runSteps, State.logged]
  | succ n ih =>
    have hdraws : s.draws + 5 * (n + 1) = s.draws + 5 + 5 * n := by omega
    have hrest := ih (h.logged (s.trace ++ serviceTrace s.cfg i) (s.draws + 5)) hact
      (State.eligible_logged hact helig _ _)
    rw [Nat.mul_succ, Nat.add_comm, runSteps_add (h.runSteps_service hact helig), hrest, List.replicate_succ,
      List.flatten_cons, hdraws, ← List.append_assoc]
    rfl

end State.Rerequests

end Sys2Proof.Machine

namespace Sys2Proof.Proofs

open Sys2Proof Sys2Proof.Machine

/-- Settles O51: the last clause by induction on the services, each of which ends where it began. -/
theorem eligibleLineIsEnteredWhenNoTurnIsNamed : Obligations.EligibleLineIsEnteredWhenNoTurnIsNamed := by
  refine ⟨fun _ => rfl, fun env s j hlegal hs helig hdepth => ?entered, fun env s => machineStep_goes_on,
    fun s t n => runSteps_without_turns, fun s => runSteps_of_ended,
    fun i s hlegal hs hact helig hclk hupdate ⟨k, hlow, hhigh, hsr, hier⟩ hprog hothers => ?served⟩
  case entered =>
    obtain ⟨i, hi⟩ := State.exists_nextEntry helig hdepth
    exact ⟨i, hi, machineStep_enters hlegal hs hi⟩
  case served =>
    have hreq : s.Rerequests i :=
      { fault := State.fault_of_eligible helig
        legal := hlegal
        schedule := hs
        inst := State.hasInst_of_eligible helig
        clocked := hclk
        request := (State.request_iff i).mpr ⟨hclk, k, by omega, hsr, hier⟩
        updateClear := hupdate
        captureSet := captureSeen_of_flag hlow hhigh hsr
        callback := hprog
        others := hothers }
    exact hreq.runSteps_services hact helig

end Sys2Proof.Proofs

/-!
PROOF. The obligations of 47_host.md: the values HSET takes for each field (R230, R231), and the frame of the three commands of
raw access (R230, R235, R236).
-/
namespace Sys2Proof.Machine

open Sys2Proof

variable {s t u : State} {i : Inst} {fld idx : BitVec 4} {v : Half}

/-! ## The fields of a handle (R45, R231) -/

section HandleWrite

variable (p : Params) (h : Handle) (v : Half)

theorem Handle.write_prescaler : h.write p 0 v = some { h with prescaler := some v } := rfl

theorem Handle.write_period : h.write p 1 v = some { h with period := some v } := rfl

theorem Handle.write_direction :
    h.write p 2 v
      = if v = 0 then some { h with direction := some .up }
        else if v = 1 then some { h with direction := some .down } else none := rfl

theorem Handle.write_ocMode :
    h.write p 3 v
      = if v.toNat ≤ 15 ∧ v.setWidth 4 ∈ p.legalOcModes then some { h with ocMode := some (v.setWidth 4) }
        else none :=
  ite_congr (by rw [Nat.lt_succ_iff]) (fun _ => rfl) (fun _ => rfl)

theorem Handle.write_pulse : h.write p 4 v = some { h with pulse := some v } := rfl

theorem Handle.write_ocPolarity :
    h.write p 5 v
      = if v = 0 then some { h with ocPolarity := some .activeHigh }
        else if v = 1 then some { h with ocPolarity := some .activeLow } else none := rfl

theorem Handle.write_icPolarity :
    h.write p 6 v
      = if v = 0 then some { h with icPolarity := some .rising }
        else if v = 1 then some { h with icPolarity := some .falling }
        else if v = 2 then some { h with icPolarity := some .bothEdges } else none := rfl

theorem Handle.write_icSelection :
    h.write p 7 v
      = if v = 0 then some { h with icSelection := some .direct }
        else if v = 1 then some { h with icSelection := some .indirect }
        else if v = 2 then some { h with icSelection := some .internalTrigger } else none := rfl

theorem Handle.write_icPrescaler :
    h.write p 8 v = if v.toNat ≤ 3 then some { h with icPrescaler := some (v.setWidth 2) } else none :=
  ite_congr (by rw [Nat.lt_succ_iff]) (fun _ => rfl) (fun _ => rfl)

theorem Handle.write_icFilter :
    h.write p 9 v = if v.toNat ≤ 15 then some { h with icFilter := some (v.setWidth 4) } else none :=
  ite_congr (by rw [Nat.lt_succ_iff]) (fun _ => rfl) (fun _ => rfl)

end HandleWrite

/-! ## HSET (R230, R231) -/

theorem startHset_of_no_inst (hfld : fld.toNat < 10) (hi : s.cfg.hasInst i = false) :
    startHset i fld v s = .error (.badInstance (encode (.hset i fld v))) := by
  simp [startHset, handleFieldExists, hfld, checkInst_of_no_inst hi]

theorem startHset_of_legal {h : Handle} (hfld : fld.toNat < 10) (hi : s.cfg.hasInst i = true)
    (hw : (s.handle i).write s.cfg fld v = some h) : startHset i fld v s = .ok {} := by
  simp [startHset, handleFieldExists, hfld, checkInst_of_hasInst hi, hw]

theorem startHset_of_illegal (hfld : fld.toNat < 10) (hi : s.cfg.hasInst i = true)
    (hw : (s.handle i).write s.cfg fld v = none) : startHset i fld v s = .error (.badHandleValue i fld v) := by
  simp [startHset, handleFieldExists, hfld, checkInst_of_hasInst hi, hw]

theorem elim_ite_some {α β : Type} (c : Prop) [Decidable c] (x : α) (o : Option α) (b : β) (f : α → β) :
    (if c then some x else o).elim b f = if c then f x else o.elim b f :=
  apply_ite (fun y => y.elim b f) c (some x) o

/-- What follows HSET's checks is decided by the value alone: the handle with the field written, or BadHandleValue. -/
theorem exec_hset_of_hasInst (hfault : s.fault = none) (hi : s.cfg.hasInst i = true) (hfld : fld.toNat < 10) :
    exec (.hset i fld v) s
      = .next (((s.handle i).write s.cfg fld v).elim (s.raise (.badHandleValue i fld v) (encode (.hset i fld v)))
          fun h => (s.setHandle i h).advance) := by
  cases hw : (s.handle i).write s.cfg fld v with
  | none => exact exec_of_start_error hfault (startHset_of_illegal hfld hi hw)
  | some h =>
    refine exec_of_run_ok hfault (startHset_of_legal hfld hi hw) ?_
    simp only [commandProg, progHset, Prog.perform, runProg, perform, hw, Option.getD_some]

/-! ## The frame of the three commands -/

/-- REG_WR writes the register its index names on the instance, if there is one (R236, R239). -/
theorem progRegWr_only (p : Params) (i : Inst) (idx : BitVec 4) (v : Half) :
    (progRegWr p i idx v).Only (timerAccess i (p.regAt i idx).toList) := by
  unfold progRegWr registerProg
  split
  · rename_i r hr
    simp [timerAccess, hr]
  · trivial

/-- The timers, the other handles, and everything but the command index and the fault state are the same. -/
def State.sameButHandle (s t : State) (i : Inst) : Prop :=
  t.timers = s.timers ∧ s.sameOutsideTimers { t with handles := s.handles } ∧ ∀ j, j ≠ i → t.handle j = s.handle j

theorem State.sameButHandle.setHandle (hu : s.sameButHandle u i) (h : Handle) :
    s.sameButHandle (u.setHandle i h) i := by
  obtain ⟨htimers, houtside, hothers⟩ := hu
  exact ⟨htimers, houtside, fun j hj => (u.handle_setHandle_ne h hj.symm).trans (hothers j hj)⟩

theorem State.sameButHandle.advance (hu : s.sameButHandle u i) : s.sameButHandle u.advance i := by
  simpa [State.sameButHandle, State.sameOutsideTimers, State.handle] using hu

/-- A write of a field of the handle of instance `i`. -/
def Access.setsField (i : Inst) : Access → Prop
  | .setField j _ _ => j = i
  | .rd _ _ | .wr _ _ _ | .rdC _ | .wrC _ _ | .wrISER _ _ | .wrICER _ _ | .rdIPR _ | .wrIPR _ _ => False
  | .rdResult _ _ | .setResult _ | .callback _ _ => False

theorem perform_setsField {a : Access} {x : Word} (ha : a.setsField i) (h : perform a u = .ok (t, x)) :
    ∃ y, t = u.setHandle i y := by
  cases a <;> simp only [Access.setsField] at ha
  case setField j f y =>
    subst ha
    cases h
    exact ⟨_, rfl⟩

theorem exec_hset_frame (h : exec (.hset i fld v) s = .next t) : s.sameButHandle t i := by
  refine exec_only (A := Access.setsField i) (P := fun w => s.sameButHandle w i) rfl (fun _ => ?_)
    (fun a w w' x ha hw hperf => ?_) (fun _ hw => hw.advance) (fun _ _ _ hw => hw) ?_ h
  · simp [commandProg, progHset, Access.setsField]
  · obtain ⟨y, rfl⟩ := perform_setsField ha hperf
    exact hw.setHandle y
  · simp [State.sameButHandle, State.sameOutsideTimers]

end Sys2Proof.Machine

namespace Sys2Proof.Proofs

open Sys2Proof Sys2Proof.Machine

/-- Settles O33: after the checks HSET is one write of the handle, whose legal values are told apart field by field. -/
theorem hsetWritesLegalValuesAndFaultsOnOthers : Obligations.HsetWritesLegalValuesAndFaultsOnOthers := by
  intro i v s hfault
  refine ⟨fun fld hfld hi => exec_of_start_error hfault (startHset_of_no_inst hfld hi), fun hi => ?_⟩
  have hexec (fld : BitVec 4) := exec_hset_of_hasInst (fld := fld) (v := v) hfault hi
  refine ⟨?_, ?_, ?_, ?_, ?_, ?_, ?_, ?_, ?_, ?_⟩ <;> rw [hexec _ (by decide)]
  · rw [Handle.write_prescaler, Option.elim_some]
  · rw [Handle.write_period, Option.elim_some]
  · rw [Handle.write_direction, elim_ite_some, elim_ite_some, Option.elim_none]
  · rw [Handle.write_ocMode, elim_ite_some, Option.elim_none]
  · rw [Handle.write_pulse, Option.elim_some]
  · rw [Handle.write_ocPolarity, elim_ite_some, elim_ite_some, Option.elim_none]
  · rw [Handle.write_icPolarity, elim_ite_some, elim_ite_some, elim_ite_some, Option.elim_none]
  · rw [Handle.write_icSelection, elim_ite_some, elim_ite_some, elim_ite_some, Option.elim_none]
  · rw [Handle.write_icPrescaler, elim_ite_some, Option.elim_none]
  · rw [Handle.write_icFilter, elim_ite_some, Option.elim_none]

/-- Settles O37, by the kind of access each command makes: reads and `result`, the named register, the instance's handle. -/
theorem rawCommandsLeaveEverythingElse : Obligations.RawCommandsLeaveEverythingElse := by
  intro i idx fld v s t
  refine ⟨fun h => ?_, fun h => ?_, exec_hset_frame⟩
  · exact exec_result_frame rfl (fun _ => Prog.only_registerProg fun r => by simp [Access.readsOnly]) h
  · obtain ⟨htimers, houtside⟩ := exec_timer_frame rfl (fun _ => progRegWr_only s.cfg i idx v) h
    refine ⟨houtside, fun r hr => ?_⟩
    rwa [hr, Option.toList_some] at htimers

end Sys2Proof.Proofs

/-!
PROOF. The obligations of 60_exceptions.md: the hardware events (R320, R321, R323), interrupt entry (R313-R319) and return (R315),
and that a frame runs nothing but its dispatcher (R314, R333).
-/
namespace Sys2Proof.Machine

open Sys2Proof

variable {s t u : State} {i j : Inst} {c : Channel}

/-! ## The hardware events (R320, R321, R323) -/

theorem State.counting_iff :
    s.counting i = true ↔ s.cfg.hasInst i = true ∧ s.clocked i = true ∧ (s.reg i .cr).getLsbD 0 = true := by
  simp only [State.counting, Bool.and_eq_true, and_assoc]

theorem State.not_counting_iff :
    s.counting i = false ↔ s.cfg.hasInst i = false ∨ s.clocked i = false ∨ (s.reg i .cr).getLsbD 0 = false := by
  simp only [State.counting, Bool.and_eq_false_iff, or_assoc]

/-- A selection code is nonzero when one of its two bits is set. -/
theorem extractLsb'_two_ne_zero_iff (x : Half) (k : Nat) :
    x.extractLsb' k 2 ≠ 0#2 ↔ x.getLsbD k = true ∨ x.getLsbD (k + 1) = true := by
  rw [← not_iff_not, not_not, not_or, Bool.not_eq_true, Bool.not_eq_true]
  constructor
  · intro h
    have hbit (n : Nat) : (x.extractLsb' k 2).getLsbD n = false := by rw [h, BitVec.getLsbD_zero]
    exact ⟨by simpa using hbit 0, by simpa using hbit 1⟩
  · rintro ⟨h0, h1⟩
    refine BitVec.eq_of_getLsbD_eq fun n hn => ?_
    interval_cases n <;> simp [h0, h1]

theorem State.capturing_iff :
    s.capturing i c = true
      ↔ ((s.reg i c.modeReg).getLsbD c.byteShift = true ∨ (s.reg i c.modeReg).getLsbD (c.byteShift + 1) = true)
        ∧ (s.reg i .epr).getLsbD c.groupShift = true := by
  rw [State.capturing, Bool.and_eq_true, bne_iff_ne, extractLsb'_two_ne_zero_iff]

theorem State.not_capturing_iff :
    s.capturing i c = false
      ↔ ((s.reg i c.modeReg).getLsbD c.byteShift = false ∧ (s.reg i c.modeReg).getLsbD (c.byteShift + 1) = false)
        ∨ (s.reg i .epr).getLsbD c.groupShift = false := by
  rw [← Bool.not_eq_true, State.capturing_iff, not_and_or, not_or]
  simp only [Bool.not_eq_true]

theorem updateEvent_of_counting (h : s.counting i = true) :
    updateEvent i s = s.setReg i .sr (s.reg i .sr ||| 0x0001#16) := by
  rw [updateEvent, if_pos h]
  rfl

theorem updateEvent_of_not_counting (h : s.counting i = false) : updateEvent i s = s := by
  simp [updateEvent, h]

theorem captureEvent_of_capturing (h : s.counting i = true) (hc : s.capturing i c = true) (d : Half) :
    captureEvent i c d s = (s.setReg i .sr (s.reg i .sr ||| (1#16 <<< c.num))).setReg i c.ccr d := by
  simp only [captureEvent, h, hc, if_true]
  rfl

theorem captureEvent_of_not_capturing (h : s.counting i = true) (hc : s.capturing i c = false) (d : Half) :
    captureEvent i c d s = s.setReg i .sr (s.reg i .sr ||| (1#16 <<< c.num)) := by
  simp only [captureEvent, h, hc, if_true]
  rfl

theorem captureEvent_of_not_counting (h : s.counting i = false) (c : Channel) (d : Half) :
    captureEvent i c d s = s := by
  simp [captureEvent, h]

/-! ## The line interrupt entry takes (R313, R316, R317) -/

theorem State.lineEnabled_iff {l : Nat} :
    s.lineEnabled l = true ↔ l / 32 < s.cfg.numBanks ∧ (s.enableWord (l / 32)).getLsbD (l % 32) = true := by
  rw [State.lineEnabled, Bool.and_eq_true, decide_eq_true_iff]
  rfl

/-- A line preempts when it is strictly more urgent than the line of the frame on top, if there is one (R316). -/
theorem State.mayPreempt_iff {l : Nat} :
    s.mayPreempt l = true
      ↔ ∀ f fs, s.active = f :: fs → (s.linePriority l).toNat < (s.linePriority f.line).toNat := by
  cases hact : s.active <;> simp [State.mayPreempt, hact]

theorem State.eligible_iff :
    s.eligible i = true
      ↔ s.cfg.hasInst i = true ∧ s.isPending (s.cfg.lineOf i) = true ∧ s.lineEnabled (s.cfg.lineOf i) = true
        ∧ s.fault = none ∧ s.mayPreempt (s.cfg.lineOf i) = true := by
  simp only [State.eligible, Bool.and_eq_true, Option.isNone_iff_eq_none, and_assoc]

/-- What R317 selects by: the priority value, then the line number. -/
def State.entryKey (s : State) (i : Inst) : ℕ ×ₗ ℕ := toLex ((s.linePriority (s.cfg.lineOf i)).toNat, s.cfg.lineOf i)

theorem State.takenBefore_iff : s.takenBefore i j = true ↔ s.entryKey i < s.entryKey j := by
  simp [State.takenBefore, State.entryKey, Prod.Lex.toLex_lt_toLex]

/-- Once an eligible timer has been looked at, the candidate is that timer or goes no later. -/
theorem State.better_of_eligible (h : s.eligible i = true) (best : Option Inst) :
    ∃ k, s.better best i = some k ∧ s.entryKey k ≤ s.entryKey i := by
  cases best with
  | none => exact ⟨i, by simp [State.better, h], le_rfl⟩
  | some j =>
    by_cases hbefore : s.takenBefore i j = true
    · exact ⟨i, by simp [State.better, h, hbefore], le_rfl⟩
    · exact ⟨j, by simp [State.better, h, hbefore], not_lt.mp (mt State.takenBefore_iff.mpr hbefore)⟩

/-- A candidate is only ever replaced by one that goes before it. -/
theorem State.better_of_candidate (j i : Inst) :
    ∃ k, s.better (some j) i = some k ∧ s.entryKey k ≤ s.entryKey j := by
  by_cases hi : s.eligible i = true
  · by_cases hbefore : s.takenBefore i j = true
    · exact ⟨i, by simp [State.better, hi, hbefore], (State.takenBefore_iff.mp hbefore).le⟩
    · exact ⟨j, by simp [State.better, hi, hbefore], le_rfl⟩
  · exact ⟨j, by simp [State.better, hi], le_rfl⟩

/-- The timer selected goes no later than any other candidate: the one the search started from and each eligible timer of the list. -/
theorem State.foldl_better_le (is : List Inst) (best : Option Inst) (h : is.foldl s.better best = some i) :
    (∀ j, best = some j → s.entryKey i ≤ s.entryKey j)
      ∧ ∀ j ∈ is, s.eligible j = true → s.entryKey i ≤ s.entryKey j := by
  induction is generalizing best with
  | nil =>
    refine ⟨fun j hj => ?_, fun j hj => absurd hj List.not_mem_nil⟩
    obtain rfl : i = j := Option.some.inj (h.symm.trans hj)
    exact le_rfl
  | cons a is ih =>
    obtain ⟨hfirst, hrest⟩ := ih (s.better best a) h
    refine ⟨fun j hj => ?_, fun j hj helig => ?_⟩
    · subst hj
      obtain ⟨k, hk, hle⟩ := s.better_of_candidate j a
      exact (hfirst k hk).trans hle
    · obtain rfl | hj := List.mem_cons.mp hj
      · obtain ⟨k, hk, hle⟩ := State.better_of_eligible helig best
        exact (hfirst k hk).trans hle
      · exact hrest j hj helig

theorem State.entryKey_le_of_nextEntry (h : s.nextEntry = some i) (hj : s.eligible j = true) :
    s.entryKey i ≤ s.entryKey j := by
  unfold State.nextEntry at h
  split at h
  · obtain ⟨-, hall⟩ := State.foldl_better_le _ _ h
    exact hall j ((Params.mem_insts_iff _ _).mpr (State.hasInst_of_eligible hj)) hj
  · cases h

/-! ## The entry and the return (R314, R315) -/

theorem enterStep_of_nextEntry (h : s.nextEntry = some i) : enterStep s = s.enterInterrupt i := by
  simp [enterStep, h]

theorem State.returnFromInterrupt_of_frame {f : Frame} {fs : List Frame} (h : s.active = f :: fs) :
    s.returnFromInterrupt = { s with active := fs, trace := s.trace ++ [.ret f.line] } := by
  simp [State.returnFromInterrupt, h]

/-- While a frame is active the turn `command` is a step of the frame. -/
theorem commandTurn_of_frame {f : Frame} {fs : List Frame} (h : s.active = f :: fs) :
    commandTurn s = contextStep s := by
  simp [commandTurn, State.betweenCommands, h]

/-! ## The command a context runs -/

/-- The context `d` runs no command but the one that `c` runs. -/
def Context.Continues (c d : Context) : Prop := ∀ g, d.slot = some g → ∃ f, c.slot = some f ∧ g.cmd = f.cmd

theorem Context.Continues.of_slot_eq {c d : Context} (h : d.slot = c.slot) : c.Continues d :=
  fun g hg => ⟨g, h ▸ hg, rfl⟩

theorem Context.Continues.idle (c : Context) : c.Continues .idle := fun _ hg => nomatch hg

theorem Context.Continues.after {c : Context} {f : InFlight} (h : c.slot = some f) (a : Access) (v : Word)
    (cb : Option CallbackRun) : c.Continues ⟨some (f.after a v), cb⟩ := by
  intro g hg
  cases hg
  exact ⟨f, h, rfl⟩

/-- After the step the frames are the same but for the content of the current context, which runs no other command. -/
def State.FramesContinue (s t : State) : Prop :=
  ∃ c, s.current.Continues c ∧ t.active = (s.setCurrent c).active

theorem State.active_setCurrent_congr (h : u.active = s.active) (c : Context) :
    (u.setCurrent c).active = (s.setCurrent c).active := by
  cases hact : s.active <;> simp [State.setCurrent, h, hact]

theorem State.FramesContinue.of_active_eq (h : t.active = s.active) : s.FramesContinue t :=
  ⟨s.current, .of_slot_eq rfl, by rw [State.setCurrent_current, h]⟩

theorem State.FramesContinue.of_setCurrent {d : Context} (hd : s.current.Continues d)
    (h : u.active = s.active) : s.FramesContinue (u.setCurrent d) :=
  ⟨d, hd, State.active_setCurrent_congr h d⟩

theorem commandAccess_framesContinue {f : InFlight} {w : Word} (hslot : s.current.slot = some f)
    (h : commandAccess f w s = .next t) : s.FramesContinue t := by
  unfold commandAccess at h
  split at h
  · cases h
    exact ⟨.idle, .idle _, by rw [State.completeCommand, State.advance_active]⟩
  · split at h
    · cases h
      exact .of_active_eq rfl
    · rename_i u v hperf
      have hact := perform_keeps_active s.active _ _ _ _ rfl hperf
      split at h
      · split at h <;> cases h <;> exact .of_setCurrent (.after hslot _ _ _) hact
      · cases h
        exact .of_setCurrent (.after hslot _ _ _) hact

theorem State.callbackCommandDone_framesContinue (run : CallbackRun) :
    s.FramesContinue (s.callbackCommandDone run) := by
  unfold State.callbackCommandDone State.leaveCallback
  split <;> exact .of_setCurrent (.of_slot_eq rfl) rfl

theorem callbackAccess_framesContinue {run : CallbackRun} {f : InFlight} {w : Word}
    (h : callbackAccess run f w s = .next t) : s.FramesContinue t := by
  unfold callbackAccess at h
  split at h
  · cases h
    exact State.callbackCommandDone_framesContinue run
  · split at h
    · cases h
      exact .of_active_eq rfl
    · rename_i u v hperf
      obtain ⟨-, -, -, -, hact, hbase, -⟩ := perform_keeps hperf
      cases h
      exact .of_setCurrent (.of_slot_eq (by rw [State.current_congr hact hbase])) hact

theorem callbackStep_framesContinue {run : CallbackRun} (h : callbackStep run s = .next t) :
    s.FramesContinue t := by
  unfold callbackStep at h
  split at h
  · exact callbackAccess_framesContinue h
  · split at h
    · cases h
      exact .of_setCurrent (.of_slot_eq rfl) rfl
    · split at h
      · cases h
        exact .of_active_eq rfl
      · split at h
        · cases h
        · split at h
          · cases h
            exact .of_active_eq rfl
          · exact callbackAccess_framesContinue h

/-- A step of a frame is its return, or goes on with the frame's own command. -/
theorem contextStep_of_frame_cases {f : Frame} {fs : List Frame} (hact : s.active = f :: fs)
    (h : contextStep s = .next t) : t.active = fs ∨ s.FramesContinue t := by
  unfold contextStep at h
  split at h
  · exact .inr (callbackStep_framesContinue h)
  · split at h
    · rename_i g hslot
      exact .inr (commandAccess_framesContinue hslot h)
    · rw [hact] at h
      cases h
      exact .inl (by rw [State.returnFromInterrupt_of_frame hact])

/-- The base level pushes no frame: that is interrupt entry's alone (R314). -/
theorem contextStep_of_base_active (hact : s.active = []) (h : contextStep s = .next t) : t.active = [] := by
  obtain rfl | ⟨c, w, rfl⟩ | ⟨f, fs, hframe, -⟩ | rfl | ⟨u, rfl | ⟨a, v, hperf⟩, c, rfl⟩ := contextStep_cases h
  · exact hact
  · exact hact
  · exact absurd (hact.symm.trans hframe) (by simp)
  · rw [State.completeCommand_of_base hact, hact]
  · simp [State.setCurrent, hact]
  · have hu := perform_keeps_active [] _ _ _ _ hact hperf
    simp [State.setCurrent, hu]

theorem exec_active {cmd : Instr} (h : exec cmd s = .next t) : t.active = s.active :=
  exec_preserves (fun u => u.active = s.active) (perform_keeps_active s.active)
    (fun u hu => by rwa [State.advance_active]) (fun _ _ _ hu => hu) rfl h

/-! ## Frames stay with their dispatcher (R314, R333) -/

theorem State.framesDispatch.of_active_eq (hs : s.framesDispatch) (h : t.active = s.active) : t.framesDispatch := by
  rwa [State.framesDispatch, h]

theorem State.framesDispatch.of_framesContinue (hs : s.framesDispatch) (h : s.FramesContinue t) :
    t.framesDispatch := by
  obtain ⟨c, hc, ht⟩ := h
  cases hact : s.active with
  | nil => exact hs.of_active_eq (by simp [ht, State.setCurrent, hact])
  | cons f fs =>
    have hcurrent : s.current = f.ctx := by simp [State.current, hact]
    intro f' hf' g hg
    rw [ht, State.setCurrent, hact] at hf'
    obtain rfl | hf' := List.mem_cons.mp hf'
    · obtain ⟨g', hg', hcmd⟩ := hc g hg
      exact hcmd.trans (hs f (by simp [hact]) g' (hcurrent ▸ hg'))
    · exact hs f' (by simp [hact, hf']) g hg

theorem State.framesDispatch.contextStep (hs : s.framesDispatch) (h : contextStep s = .next t) :
    t.framesDispatch := by
  cases hact : s.active with
  | nil => exact hs.of_active_eq ((contextStep_of_base_active hact h).trans hact.symm)
  | cons f fs =>
    obtain hreturn | hgoes := contextStep_of_frame_cases hact h
    · exact fun g hg => hs g (by rw [hact, ← hreturn]; exact List.mem_cons_of_mem f hg)
    · exact hs.of_framesContinue hgoes

/-- Entry pushes a frame that starts its own dispatcher (R314). -/
theorem State.framesDispatch.enterInterrupt (hs : s.framesDispatch) (i : Inst) :
    (s.enterInterrupt i).framesDispatch := by
  intro f hf g hg
  obtain rfl | hf := List.mem_cons.mp hf
  · cases hg
    rfl
  · exact hs f hf g hg

theorem TurnMove.framesDispatch (h : TurnMove s t) (hs : s.framesDispatch) : t.framesDispatch := by
  obtain rfl | ⟨i, rfl⟩ | ⟨i, c, d, rfl⟩ | ⟨i, rfl⟩ | ⟨i, -, rfl⟩ | hctx | ⟨c, w, rfl⟩ | ⟨cmd, -, hexec⟩ := h
  · exact hs
  · obtain ⟨v, e⟩ | e := updateEvent_cases i s <;> exact hs.of_active_eq (by simp [e])
  · obtain ⟨v, e⟩ | ⟨v, e⟩ | e := captureEvent_cases i c d s <;> exact hs.of_active_eq (by simp [e])
  · obtain e | e := pendStep_cases i s <;> exact hs.of_active_eq (by simp [e])
  · exact hs.enterInterrupt i
  · exact hs.contextStep hctx
  · exact hs
  · exact hs.of_active_eq (exec_active hexec)

end Sys2Proof.Machine

namespace Sys2Proof.Proofs

open Sys2Proof Sys2Proof.Machine

/-- Settles O47: the turn is the event, told apart by the counter and by the channel's mode. -/
theorem captureEventSetsTheFlagAndLatchesInCaptureMode :
    Obligations.CaptureEventSetsTheFlagAndLatchesInCaptureMode := by
  intro i c d s ts hfault hlegal hs
  have hstep : step s = .next (captureEvent i c d { s with schedule := ts }) := machineStep_of_turn hfault hlegal hs
  refine ⟨fun hcount => ?_, fun hidle => ?_⟩
  · have hcount' : ({ s with schedule := ts } : State).counting i = true := State.counting_iff.mpr hcount
    refine ⟨fun hcapt => ?_, fun hplain => ?_⟩
    · exact hstep.trans (congrArg _ (captureEvent_of_capturing hcount' (State.capturing_iff.mpr hcapt) d))
    · exact hstep.trans (congrArg _ (captureEvent_of_not_capturing hcount' (State.not_capturing_iff.mpr hplain) d))
  · have hidle' : ({ s with schedule := ts } : State).counting i = false := State.not_counting_iff.mpr hidle
    exact hstep.trans (congrArg _ (captureEvent_of_not_counting hidle' c d))

/-- Settles O50: the selected line is eligible, and its key is the least of the eligible lines'. -/
theorem entryTakesTheMostUrgentEligibleLine : Obligations.EntryTakesTheMostUrgentEligibleLine := by
  intro i s h
  obtain ⟨hdepth, helig⟩ := State.eligible_of_nextEntry h
  obtain ⟨hinst, hpend, henabled, hfault, hpreempt⟩ := State.eligible_iff.mp helig
  obtain ⟨hbank, hbit⟩ := State.lineEnabled_iff.mp henabled
  refine ⟨⟨hinst, hpend, hbank, hbit, hfault, State.mayPreempt_iff.mp hpreempt, hdepth⟩, fun j hj => ?_⟩
  exact Prod.Lex.toLex_le_toLex.mp (State.entryKey_le_of_nextEntry h hj)

/-- Settles O55: entry starts a dispatcher, and every other turn leaves a frame with the command it runs. -/
theorem stepKeepsFramesOnTheirDispatcher : Obligations.StepKeepsFramesOnTheirDispatcher := by
  intro s t hs h
  obtain ⟨-, -, ts, d, hmove⟩ := machineStep_cases h
  exact hmove.framesDispatch hs

/-- Settles O46. -/
theorem updateEventSetsUifOnlyWhileCounting : Obligations.UpdateEventSetsUifOnlyWhileCounting := by
  intro i s ts hfault hlegal hs
  have hstep : step s = .next (updateEvent i { s with schedule := ts }) := machineStep_of_turn hfault hlegal hs
  refine ⟨fun hcount => ?_, fun hidle => ?_⟩
  · exact hstep.trans (congrArg _ (updateEvent_of_counting (State.counting_iff.mpr hcount)))
  · exact hstep.trans (congrArg _ (updateEvent_of_not_counting (State.not_counting_iff.mpr hidle)))

/-- Settles O49: the list of turns plays no part in which line is selected. -/
theorem entryPushesADispatcherFrame : Obligations.EntryPushesADispatcherFrame := by
  intro i s ts hfault hlegal hs hi
  have hi' : ({ s with schedule := ts } : State).nextEntry = some i := hi
  calc step s = .next (enterStep { s with schedule := ts }) := machineStep_of_turn hfault hlegal hs
    _ = .next (({ s with schedule := ts } : State).enterInterrupt i) := by rw [enterStep_of_nextEntry hi']

/-- Settles O52: with a frame active either command turn is the same step, and that step is the return. -/
theorem returnPopsTheFrameAndRestoresNothing : Obligations.ReturnPopsTheFrameAndRestoresNothing := by
  intro f fs s ts hfault hlegal hact hidle hturn
  have hact' : ({ s with schedule := ts } : State).active = f :: fs := hact
  have hstep : step s = contextStep { s with schedule := ts } := by
    obtain hs | hs := hturn
    · exact machineStep_of_turn hfault hlegal hs
    · exact (machineStep_of_turn hfault hlegal hs).trans (commandTurn_of_frame hact')
  rw [hstep, contextStep_returns hact' hidle, State.returnFromInterrupt_of_frame hact']

end Sys2Proof.Proofs
